-- ==== Sys2Proof/Word.lean ====
section
/-! DEFINITION. The bit-vector widths of the machine and nothing else: stimulus words, bytes, colour
indices, register offsets, memory indices and chip-side addresses. -/

namespace Sys2Proof

/-- A stimulus word (30_encoding.md R120). -/
abbrev Word := BitVec 32

/-- A byte: a register, a memory cell, a framebuffer pixel (R10, R21, R45). -/
abbrev Byte := BitVec 8

/-- A colour index, 0 to 15 (R138). -/
abbrev Colour := BitVec 4

/-- The offset of a register in the bank, 0 to 15 (R21, R80). -/
abbrev RegIx := Fin 16

/-- An index into the emulated memory array, 0x0000 to 0xFFFF (R47, R80). -/
abbrev MemIx := BitVec 16

/-- A chip-side address `va`, 0x0000 to 0x3FFF (R90). -/
abbrev ChipAddr := BitVec 14

/-- The number of an audio channel: 0 bass, 1 alto, 2 soprano, 3 noise (R39, R59). -/
abbrev Channel := Fin 4

end Sys2Proof
end

