-- ==== Sys2Proof/Syntax.lean ====
section
/-! DEFINITION. The stimuli: one constructor for each of the 38 rows of spec/opcode_table.json
(30_encoding.md R121, R125). The register number of RD and WR is part of the row, so it is part of the constructor. -/

namespace Sys2Proof

/-- A stimulus, the block's "instruction" (R121). `d` is the data byte, `a` the memory index, `m` the mode code (R123). -/
inductive Instr where
  | tick
  | rdR0 | rdR1 | rdR2 | rdR3 | rdR4 | rdR5 | rdR6 | rdR7
  | rdR8 | rdR9 | rdR10 | rdR11 | rdR12 | rdR13 | rdR14 | rdR15
  | wrR0 (d : Byte) | wrR1 (d : Byte) | wrR2 (d : Byte) | wrR3 (d : Byte)
  | wrR4 (d : Byte) | wrR5 (d : Byte) | wrR6 (d : Byte) | wrR7 (d : Byte)
  | wrR8 (d : Byte) | wrR9 (d : Byte) | wrR10 (d : Byte) | wrR11 (d : Byte)
  | wrR12 (d : Byte) | wrR13 (d : Byte) | wrR14 (d : Byte) | wrR15 (d : Byte)
  | memw (a : MemIx) (d : Byte)
  | mode (m : Byte)
  | reset
  | overrun
  | diag
deriving DecidableEq, Repr

end Sys2Proof
end

