-- ==== Sys2Proof/WellFormed.lean ====
section
/-! DEFINITION. Well-formedness: of a stimulus (its operand types already admit exactly the encodable values) and of a
line of a stimulus program as it is written (30_encoding.md R140, R141), whose numbers may be of any size. -/

namespace Sys2Proof

/-- Every term of `Instr` is well formed: a register number is part of the constructor, `d` and `m` are 8 bits and `a`
is 16 bits, which are exactly the values R120's fields hold. A mode code above 3 is a legal word (R126). -/
def Instr.wellFormed (_ : Instr) : Bool := true

/-- A line of a stimulus program (R140) or a pseudo-instruction (R141), with its numbers as written. -/
inductive AsmLine where
  /-- `TICK n`; a plain `TICK` is `TICK 1`. -/
  | tick (n : Nat)
  | rd (r : Nat)
  | wr (r d : Nat)
  /-- `MEMW a, d0, ..., dk`. -/
  | memw (a : Nat) (ds : List Nat)
  | mode (m : Nat)
  | reset
  | overrun
  | diag
  | line
  | frame
  | memfill (a n d : Nat)
  | wrall (ds : List Nat)
deriving DecidableEq, Repr

/-- A register number of R140. -/
def regInRange (r : Nat) : Bool := decide (r ≤ 15)

/-- A byte operand. -/
def byteInRange (d : Nat) : Bool := decide (d ≤ 0xFF)

/-- `n` consecutive memory indices from `a` exist. -/
def spanInRange (a n : Nat) : Bool := decide (a + n ≤ 0x10000)

/-- The operands of a line fit the fields of R120, so that its words exist. -/
def AsmLine.wellFormed : AsmLine → Bool
  | .tick _ => true
  | .rd r => regInRange r
  | .wr r d => regInRange r && byteInRange d
  | .memw a ds => !ds.isEmpty && spanInRange a ds.length && ds.all byteInRange
  | .mode m => byteInRange m
  | .reset => true
  | .overrun => true
  | .diag => true
  | .line => true
  | .frame => true
  | .memfill a n d => spanInRange a n && byteInRange d
  | .wrall ds => decide (ds.length = 16) && ds.all byteInRange

end Sys2Proof
end

