-- ==== Sys2Proof/Decode.lean ====
section
/-! DEFINITION. The stimulus word of 30_encoding.md: its four fields (R120), the decoder, total on all 2^32 words and
refusing by name (R121, R122, R124, R126), the encoder (R140), and the opcode table's masks and matches (R122). -/

namespace Sys2Proof

/-- The `op` field, bits 31:28 (R120). -/
def opOf (w : Word) : BitVec 4 := w.extractLsb' 28 4

/-- The `r` field, bits 27:24 (R120). -/
def rOf (w : Word) : BitVec 4 := w.extractLsb' 24 4

/-- The `a` field, bits 23:8 (R120). -/
def aOf (w : Word) : MemIx := w.extractLsb' 8 16

/-- The `d` field, bits 7:0 (R120). -/
def dOf (w : Word) : Byte := w.extractLsb' 0 8

/-- The word with the given four fields (R120). -/
def packWord (op r : BitVec 4) (a : MemIx) (d : Byte) : Word := op ++ r ++ a ++ d

/-- The named reasons for which the decoder refuses a word (R124). -/
inductive DecodeRefusal where
  /-- `RESERVED_OP`: `op` is 0x8 to 0xF. -/
  | reservedOp
  /-- `RESERVED_BITS_NONZERO`: a field that R121 marks 0 is not zero. -/
  | reservedBitsNonzero
deriving DecidableEq, Repr

/-- What the decoder answers: a stimulus or a named refusal. -/
inductive Decoded where
  | instr (i : Instr)
  | refused (r : DecodeRefusal)
deriving DecidableEq, Repr

/-- The RD row that the `r` field selects (R125). -/
def rdInstr (r : BitVec 4) : Instr :=
  match r.toNat with
  | 0 => .rdR0
  | 1 => .rdR1
  | 2 => .rdR2
  | 3 => .rdR3
  | 4 => .rdR4
  | 5 => .rdR5
  | 6 => .rdR6
  | 7 => .rdR7
  | 8 => .rdR8
  | 9 => .rdR9
  | 10 => .rdR10
  | 11 => .rdR11
  | 12 => .rdR12
  | 13 => .rdR13
  | 14 => .rdR14
  | _ => .rdR15

/-- The WR row that the `r` field selects (R125). -/
def wrInstr (r : BitVec 4) (d : Byte) : Instr :=
  match r.toNat with
  | 0 => .wrR0 d
  | 1 => .wrR1 d
  | 2 => .wrR2 d
  | 3 => .wrR3 d
  | 4 => .wrR4 d
  | 5 => .wrR5 d
  | 6 => .wrR6 d
  | 7 => .wrR7 d
  | 8 => .wrR8 d
  | 9 => .wrR9 d
  | 10 => .wrR10 d
  | 11 => .wrR11 d
  | 12 => .wrR12 d
  | 13 => .wrR13 d
  | 14 => .wrR14 d
  | _ => .wrR15 d

/-- A stimulus, if the fields that R121 marks 0 are zero. -/
def requireZero (zero : Bool) (i : Instr) : Decoded :=
  if zero then .instr i else .refused .reservedBitsNonzero

/-- The decoder (R121, R124). The operation class is checked first, so a word with a reserved `op` and nonzero
fields is refused as `RESERVED_OP` (R508). -/
def decode (w : Word) : Decoded :=
  match (opOf w).toNat with
  | 0 => requireZero (rOf w == 0 && aOf w == 0 && dOf w == 0) .tick
  | 1 => requireZero (aOf w == 0 && dOf w == 0) (rdInstr (rOf w))
  | 2 => requireZero (aOf w == 0) (wrInstr (rOf w) (dOf w))
  | 3 => requireZero (rOf w == 0) (.memw (aOf w) (dOf w))
  | 4 => requireZero (rOf w == 0 && aOf w == 0) (.mode (dOf w))
  | 5 => requireZero (rOf w == 0 && aOf w == 0 && dOf w == 0) .reset
  | 6 => requireZero (rOf w == 0 && aOf w == 0 && dOf w == 0) .overrun
  | 7 => requireZero (rOf w == 0 && aOf w == 0 && dOf w == 0) .diag
  | _ => .refused .reservedOp

/-- The word of a stimulus (R121, R140). -/
def encode : Instr → Word
  | .tick => packWord 0 0 0 0
  | .rdR0 => packWord 1 0 0 0
  | .rdR1 => packWord 1 1 0 0
  | .rdR2 => packWord 1 2 0 0
  | .rdR3 => packWord 1 3 0 0
  | .rdR4 => packWord 1 4 0 0
  | .rdR5 => packWord 1 5 0 0
  | .rdR6 => packWord 1 6 0 0
  | .rdR7 => packWord 1 7 0 0
  | .rdR8 => packWord 1 8 0 0
  | .rdR9 => packWord 1 9 0 0
  | .rdR10 => packWord 1 10 0 0
  | .rdR11 => packWord 1 11 0 0
  | .rdR12 => packWord 1 12 0 0
  | .rdR13 => packWord 1 13 0 0
  | .rdR14 => packWord 1 14 0 0
  | .rdR15 => packWord 1 15 0 0
  | .wrR0 d => packWord 2 0 0 d
  | .wrR1 d => packWord 2 1 0 d
  | .wrR2 d => packWord 2 2 0 d
  | .wrR3 d => packWord 2 3 0 d
  | .wrR4 d => packWord 2 4 0 d
  | .wrR5 d => packWord 2 5 0 d
  | .wrR6 d => packWord 2 6 0 d
  | .wrR7 d => packWord 2 7 0 d
  | .wrR8 d => packWord 2 8 0 d
  | .wrR9 d => packWord 2 9 0 d
  | .wrR10 d => packWord 2 10 0 d
  | .wrR11 d => packWord 2 11 0 d
  | .wrR12 d => packWord 2 12 0 d
  | .wrR13 d => packWord 2 13 0 d
  | .wrR14 d => packWord 2 14 0 d
  | .wrR15 d => packWord 2 15 0 d
  | .memw a d => packWord 3 0 a d
  | .mode m => packWord 4 0 0 m
  | .reset => packWord 5 0 0 0
  | .overrun => packWord 6 0 0 0
  | .diag => packWord 7 0 0 0

/-- The "match" of the stimulus's row in the opcode table (R122). -/
def rowMatch : Instr → Word
  | .tick => 0x00000000
  | .rdR0 => 0x10000000
  | .rdR1 => 0x11000000
  | .rdR2 => 0x12000000
  | .rdR3 => 0x13000000
  | .rdR4 => 0x14000000
  | .rdR5 => 0x15000000
  | .rdR6 => 0x16000000
  | .rdR7 => 0x17000000
  | .rdR8 => 0x18000000
  | .rdR9 => 0x19000000
  | .rdR10 => 0x1A000000
  | .rdR11 => 0x1B000000
  | .rdR12 => 0x1C000000
  | .rdR13 => 0x1D000000
  | .rdR14 => 0x1E000000
  | .rdR15 => 0x1F000000
  | .wrR0 _ => 0x20000000
  | .wrR1 _ => 0x21000000
  | .wrR2 _ => 0x22000000
  | .wrR3 _ => 0x23000000
  | .wrR4 _ => 0x24000000
  | .wrR5 _ => 0x25000000
  | .wrR6 _ => 0x26000000
  | .wrR7 _ => 0x27000000
  | .wrR8 _ => 0x28000000
  | .wrR9 _ => 0x29000000
  | .wrR10 _ => 0x2A000000
  | .wrR11 _ => 0x2B000000
  | .wrR12 _ => 0x2C000000
  | .wrR13 _ => 0x2D000000
  | .wrR14 _ => 0x2E000000
  | .wrR15 _ => 0x2F000000
  | .memw _ _ => 0x30000000
  | .mode _ => 0x40000000
  | .reset => 0x50000000
  | .overrun => 0x60000000
  | .diag => 0x70000000

/-- The "mask" of the stimulus's row in the opcode table (R122). -/
def rowMask : Instr → Word
  | .tick | .reset | .overrun | .diag => 0xFFFFFFFF
  | .rdR0 | .rdR1 | .rdR2 | .rdR3 | .rdR4 | .rdR5 | .rdR6 | .rdR7
  | .rdR8 | .rdR9 | .rdR10 | .rdR11 | .rdR12 | .rdR13 | .rdR14 | .rdR15 => 0xFFFFFFFF
  | .wrR0 _ | .wrR1 _ | .wrR2 _ | .wrR3 _ | .wrR4 _ | .wrR5 _ | .wrR6 _ | .wrR7 _
  | .wrR8 _ | .wrR9 _ | .wrR10 _ | .wrR11 _ | .wrR12 _ | .wrR13 _ | .wrR14 _ | .wrR15 _ => 0xFFFFFF00
  | .memw _ _ => 0xFF000000
  | .mode _ => 0xFFFFFF00

/-- The number `w` of an instruction of `nbits` bits as a stimulus word: bits from `nbits` up are zero. -/
def tableWord (nbits w : Nat) : Word := BitVec.ofNat 32 (w % 2 ^ nbits)

/-- The stimulus the decoder reads from the word with those bits. -/
def decodeTableWord (nbits w : Nat) : Option Instr :=
  match decode (tableWord nbits w) with
  | .instr i => some i
  | .refused _ => none

end Sys2Proof
end

