-- ==== Sys2Proof/Config.lean ====
section
/-! DEFINITION. The configuration record CFG of 00_scope.md R7: the figures the source states, the parameters
the spec gives a default for (kinds gk and decided), and the OPEN parameters, to which it gives no value.
The machine's own OPEN parameters are one opaque constant: nothing can prove which well-formed record it is. -/

namespace Sys2Proof

/-- The two video standards over which R7's `S` ranges. -/
inductive Standard where
  | pal
  | ntsc
deriving DecidableEq, Repr, Inhabited

/-- The line classes of 41_cycle_tick.md R256. -/
inductive LineClass where
  | visible
  | vsync
  | vblank
deriving DecidableEq, Repr, Inhabited

/-- The four video modes of R23 and R133 (codes 0 to 3, in this order). -/
inductive VideoMode where
  | pal
  | ntsc
  | palTest
  | ntscTest
deriving DecidableEq, Repr, Inhabited

/-- `LINE_CYCLES[S]` (R7, R255): cycles per line. -/
def lineCycles : Standard → Nat
  | .pal => 71
  | .ntsc => 65

/-- `FRAME_LINES` (R7, R255): raster lines per frame, by standard and the interlace bit `REG[0][7]`. -/
def frameLines : Standard → Bool → Nat
  | .pal, _ => 312
  | .ntsc, false => 261
  | .ntsc, true => 262

/-- `PIXELS_PER_CYCLE` (R7): colour indices in a batch. -/
def pixelsPerCycle : Nat := 4

/-- `ARRAY_SIZE` (R7, R47): bytes of the emulated memory array. -/
def arraySize : Nat := 65536

/-- `CMD_LAYOUT[S]` of R134: where a composite command word of width `w` holds its three fields. -/
structure CmdLayout (w : Nat) where
  base  : BitVec w
  lvlLo : Nat
  lvlW  : Nat
  dlyLo : Nat
  dlyW  : Nat
  cntLo : Nat
  cntW  : Nat
deriving DecidableEq, Repr, Inhabited

/-- Two bit ranges, each given by its lowest bit and its width, share no bit. -/
def rangesApart (lo₁ w₁ lo₂ w₂ : Nat) : Prop := lo₁ + w₁ ≤ lo₂ ∨ lo₂ + w₂ ≤ lo₁

/-- `base` has a zero in every bit of the range. -/
def zeroRange {w : Nat} (base : BitVec w) (lo len : Nat) : Prop :=
  ∀ i, lo ≤ i → i < lo + len → base.getLsbD i = false

/-- R134's conditions on a layout: the three fields lie inside the word, no two overlap, and `base` is zero in all three. -/
structure CmdLayout.WellFormed {w : Nat} (l : CmdLayout w) : Prop where
  lvlInside : l.lvlLo + l.lvlW ≤ w
  dlyInside : l.dlyLo + l.dlyW ≤ w
  cntInside : l.cntLo + l.cntW ≤ w
  lvlDly : rangesApart l.lvlLo l.lvlW l.dlyLo l.dlyW
  lvlCnt : rangesApart l.lvlLo l.lvlW l.cntLo l.cntW
  dlyCnt : rangesApart l.dlyLo l.dlyW l.cntLo l.cntW
  lvlZero : zeroRange l.base l.lvlLo l.lvlW
  dlyZero : zeroRange l.base l.dlyLo l.dlyW
  cntZero : zeroRange l.base l.cntLo l.cntW

/-- The OPEN parameters of R7: the spec gives no value to any of them. -/
structure OpenParams where
  /-- `VIS_END[NTSC]` (R256, gap N12). -/
  visEndNtsc : Nat
  /-- `VSYNC_END[NTSC]` (R256, gap N12). -/
  vsyncEndNtsc : Nat
  /-- `HC_VC_INC[S]`: the hc value at which vc increments (R260). -/
  hcVcInc : Standard → Nat
  /-- `HC_RASTER[S]`: the hc value at which the raster readback is written (R258). -/
  hcRaster : Standard → Nat
  /-- `HVIS_START[S]`: first visible cycle of a line (R257). -/
  hvisStart : Standard → Nat
  /-- `HVIS_END[S]`: first cycle after the visible window (R257). -/
  hvisEnd : Standard → Nat
  /-- `FB_WIDTH[S]` (R413). -/
  fbWidth : Standard → Nat
  /-- `FB_HEIGHT[S]` (R413). -/
  fbHeight : Standard → Nat
  /-- `FB_LINE_OFFSET[S]`: the vc of framebuffer line 0 (R413). -/
  fbLineOffset : Standard → Nat
  /-- `FB_COLOUR[16]`: the byte of a colour index, in RGB332 (R137, R412). -/
  fbColour : Colour → Byte
  /-- `CMD_WIDTH[S]` (R134). -/
  cmdWidth : Standard → Nat
  /-- `CMD_LAYOUT[S]` (R134). -/
  cmdLayout : (S : Standard) → CmdLayout (cmdWidth S)
  /-- `SYNC_CMDS[S](lc, parity, field, hc)` (R353). -/
  syncCmds : (S : Standard) → LineClass → (parity field : Bool) → (hc : BitVec 7) → List (BitVec (cmdWidth S))
  /-- `PAL_PIX[p][c]` (R354). -/
  palPix : (parity : Bool) → Colour → BitVec (cmdWidth .pal)
  /-- `PAL_PIX_TRUNC[p][c]` (R354, R356). -/
  palPixTrunc : (parity : Bool) → Colour → BitVec (cmdWidth .pal)
  /-- `NTSC_PIX[r][c]` (R355). -/
  ntscPix : (row : BitVec 3) → Colour → BitVec (cmdWidth .ntsc)
  /-- `NTSC_PIX_TRUNC[r][c]` (R355, R356). -/
  ntscPixTrunc : (row : BitVec 3) → Colour → BitVec (cmdWidth .ntsc)
  /-- `NTSC_ROW(p, hc, k)`: the carrier-phase row 0 to 7 (R355). -/
  ntscRow : (parity : Bool) → (hc : BitVec 7) → (k : Fin 4) → BitVec 3
  /-- `OPEN_BUS(i)`: which indices are unconnected (R96). -/
  openBus : MemIx → Bool
  /-- `OPEN_BUS_VALUE`: the sentinel they read (R96). -/
  openBusValue : Byte
  /-- `MODE_OK(m)`: the hardware-revision check (R432). -/
  modeOk : VideoMode → Bool
  /-- `TEST_PATTERN(S, vc, hc, k)` (R267). -/
  testPattern : Standard → (vc : BitVec 9) → (hc : BitVec 7) → (k : Fin 4) → Colour
  /-- `MEM_INIT`: the contents of the memory array before the host writes it (R531). -/
  memInit : Nat → Byte
  /-- `MIN_LEAD_LINES` (R541): an obligation on the environment, no core rule reads it. -/
  minLeadLines : Nat
  /-- `QUEUE_CAPACITY` (R7): host side, no core rule reads it. -/
  queueCapacity : Nat
  /-- `CYCLE_BUDGET` (R7, R544): timing, no core rule reads it. -/
  cycleBudget : Nat

/-- The whole record CFG of R7: the OPEN parameters, and the parameters of kinds gk and decided. -/
structure Config extends OpenParams where
  /-- `VIC_TO_ARRAY(va)` (R93, gk). -/
  vicToArray : ChipAddr → MemIx
  /-- `COLOUR_RAM_BASE` (R95, gk). -/
  colourRamBase : MemIx
  /-- `REG_BASE` (R431, gk): used by the bus bridge only. -/
  regBase : MemIx
  /-- `AUDIO_DIV[4]` (R381, gk). -/
  audioDiv : Vector Nat 4
  /-- `AUDIO_PHASE[4]` (R381, decided D28). -/
  audioPhase : Vector Nat 4
  /-- `AUDIO_PRESC_MOD` (R381, decided D28). -/
  audioPrescMod : Nat
  /-- `AUDIO_TERMINAL` (R384, decided D29). -/
  audioTerminal : BitVec 7
  /-- `AUDIO_RELOAD_OFFSET` (R384, decided D29). -/
  audioReloadOffset : BitVec 7
  /-- `AUDIO_BIAS` (R394, decided D33). -/
  audioBias : Nat
  /-- `LFSR_INIT` (R41, decided D37). -/
  lfsrInit : BitVec 16
  /-- `REG_INIT[16]` (R64, decided D37). -/
  regInit : Vector Byte 16
  /-- `MODE_INIT` (R23, decided D37). -/
  modeInit : VideoMode

/-- What the spec asks of a configuration. A model refuses a table that breaks these (R254), so the machine's own
record meets them all. -/
structure Config.WellFormed (cfg : Config) : Prop where
  /-- R254. -/
  hcVcInc_lt : ∀ S, cfg.hcVcInc S < lineCycles S
  /-- R254. -/
  hcRaster_lt : ∀ S, cfg.hcRaster S < lineCycles S
  /-- R254. -/
  hvis_le : ∀ S, cfg.hvisStart S ≤ cfg.hvisEnd S
  /-- R254. -/
  hvisEnd_le : ∀ S, cfg.hvisEnd S ≤ lineCycles S
  /-- R411: fewer NTSC pixels per line than PAL. -/
  ntscNarrower : cfg.hvisEnd .ntsc - cfg.hvisStart .ntsc < cfg.hvisEnd .pal - cfg.hvisStart .pal
  /-- R134. -/
  layout : ∀ S, (cfg.cmdLayout S).WellFormed
  /-- R433: the initial mode passes the revision check. -/
  modeInitOk : cfg.modeOk cfg.modeInit = true
  /-- R38, R381: the prescaler has a modulus (DEDUCED: a residue needs one). -/
  presc_pos : 0 < cfg.audioPrescMod
  /-- R381. -/
  div_dvd : ∀ i : Channel, cfg.audioDiv[i] ∣ cfg.audioPrescMod
  /-- R381. -/
  phase_lt : ∀ i : Channel, cfg.audioPhase[i] < cfg.audioDiv[i]
  /-- R394: the level stays unsigned. -/
  bias_ge : 60 ≤ cfg.audioBias
  /-- R43: the level, at most `2 * AUDIO_BIAS`, is held in 8 bits (DEDUCED). -/
  bias_le : cfg.audioBias ≤ 127

end Sys2Proof
end

