-- ==== Sys2Proof/Machine/Params.lean ====
section
/-! DEFINITION. The machine's own configuration record `hw`: the values that R7 gives the parameters of kinds gk and
decided, over OPEN parameters that are one opaque constant, of which only well-formedness is known (R254). -/

namespace Sys2Proof.Machine

/-- `VIC_TO_ARRAY(va)`: the complement of `va[13]` in bit 15, zeros in bits 14:13, `va[12:0]` below (R93). -/
def vicToArray (va : ChipAddr) : MemIx :=
  BitVec.ofBool (!va.getLsbD 13) ++ (0 : BitVec 2) ++ va.extractLsb' 0 13

/-- The parameters of kinds gk and decided at their values of R7, over any OPEN parameters. -/
def specConfig (p : OpenParams) : Config :=
  { p with
    vicToArray := vicToArray
    colourRamBase := 0x9400
    regBase := 0x9000
    audioDiv := #v[16, 8, 4, 2]
    audioPhase := #v[0, 0, 0, 0]
    audioPrescMod := 16
    audioTerminal := 0
    audioReloadOffset := 0
    audioBias := 60
    lfsrInit := 0xFFFF
    regInit := #v[0, 0, 0, 0, 0, 0, 0, 0, 0, 0, 0, 0, 0, 0, 0, 0]
    modeInit := .pal }

/-- A record that only shows that well-formed OPEN parameters exist (the constant below needs that); no definition of
the machine reads it, and its values are no claim about the hardware. -/
def someOpenParams : OpenParams where
  visEndNtsc := 0
  vsyncEndNtsc := 0
  hcVcInc := fun _ => 0
  hcRaster := fun _ => 0
  hvisStart := fun _ => 0
  hvisEnd := lineCycles
  fbWidth := fun _ => 0
  fbHeight := fun _ => 0
  fbLineOffset := fun _ => 0
  fbColour := fun _ => 0
  cmdWidth := fun _ => 0
  cmdLayout := fun _ => ⟨0, 0, 0, 0, 0, 0, 0⟩
  syncCmds := fun _ _ _ _ _ => []
  palPix := fun _ _ => 0
  palPixTrunc := fun _ _ => 0
  ntscPix := fun _ _ => 0
  ntscPixTrunc := fun _ _ => 0
  ntscRow := fun _ _ _ => 0
  openBus := fun _ => false
  openBusValue := 0
  modeOk := fun _ => true
  testPattern := fun _ _ _ _ => 0
  memInit := fun _ => 0
  minLeadLines := 0
  queueCapacity := 0
  cycleBudget := 0

theorem specConfig_someOpenParams_wellFormed : (specConfig someOpenParams).WellFormed where
  hcVcInc_lt := by intro S; cases S <;> decide
  hcRaster_lt := by intro S; cases S <;> decide
  hvis_le := by intro S; cases S <;> decide
  hvisEnd_le := by intro S; cases S <;> decide
  ntscNarrower := by decide
  layout := by
    intro S
    exact ⟨Nat.le_refl _, Nat.le_refl _, Nat.le_refl _, .inl (Nat.le_refl _), .inl (Nat.le_refl _),
      .inl (Nat.le_refl _), fun i h h' => absurd h' (Nat.not_lt.mpr h), fun i h h' => absurd h' (Nat.not_lt.mpr h),
      fun i h h' => absurd h' (Nat.not_lt.mpr h)⟩
  modeInitOk := by decide
  presc_pos := by decide
  div_dvd := by decide
  phase_lt := by decide
  bias_ge := by decide
  bias_le := by decide

/-- OPEN parameters that, with R7's other values, make a well-formed configuration. -/
structure WellFormedOpen where
  params : OpenParams := someOpenParams
  wellFormed : (specConfig params).WellFormed := by exact specConfig_someOpenParams_wellFormed
deriving Inhabited

/-- The hardware's OPEN parameters: no value of any of them can be proved, so a theorem about `hw` holds for every
well-formed choice of them (R8). -/
opaque hwOpen : WellFormedOpen

/-- The machine's configuration record (R7). -/
def hw : Config := specConfig hwOpen.params

/-- A model refuses a malformed table (R254, R433), so the machine's record is well formed. -/
theorem hw_wellFormed : hw.WellFormed := hwOpen.wellFormed

end Sys2Proof.Machine
end

