-- ==== Sys2Proof/Machine/State.lean ====
section
/-! DEFINITION. The machine's state (10_state.md R20 to R47), the reasons a step can stop, and the state after reset
(R64). -/

namespace Sys2Proof.Machine

/-- The nine fetch states, in the order of their codes 0 to 8 (R27, R130). -/
inductive FetchState where
  | outsideMatrix
  | inMatrixY
  | inMatrixX
  | matrixLine
  | matrixDly1
  | matrixDly2
  | matrixDly3
  | screenCode
  | charData
deriving DecidableEq, Repr

/-- A composite command word: its width, `CMD_WIDTH[S]` of the standard that emitted it, and its bits (R44, R134). -/
structure CmdWord where
  width : Nat
  bits  : BitVec width
deriving DecidableEq, Repr

/-- The record DIAG returns: the overrun counter, the mode and the four due flags (R438). -/
structure DiagRecord where
  overrun : BitVec 32
  mode    : VideoMode
  due     : Vector Bool 4
deriving DecidableEq, Repr

/-- What the latest stimulus returned to whatever issued it (R500, R240, R432, R438). It is the model's own field:
the spec returns these values to the host, and a step of this model returns a state. -/
inductive Reply where
  /-- No stimulus has been answered since reset. -/
  | none
  /-- Outcome OK with no value (R500). -/
  | ok
  /-- Outcome OK of an RD: the byte of the register (R240). -/
  | byte (b : Byte)
  /-- Outcome OK of a DIAG (R438). -/
  | diag (d : DiagRecord)
  /-- Outcome CONFIG_ERROR: the rejected mode code (R501). -/
  | configError (m : Byte)
deriving DecidableEq, Repr

/-- Memory as cells of address and byte, addresses strictly rising, no cell equal to what its unlisted address reads as. -/
abbrev Memory := List Host.Cell

/-- No fault exists: a TICK has "no recoverable errors" and no stimulus has a faulting variant (R505, R506). The one
error, ConfigError, is a returned value (R501) and stands in `Reply`. Nothing raises a fault, which is safe. -/
inductive Fault where
deriving DecidableEq, Repr

/-- The reasons a step is refused. -/
inductive Refusal where
  /-- Raised by a refused arm of `exec` for an instruction with no meaning yet; safe. No arm raises it now. -/
  | notModelled (mnemonic : String)
  /-- Raised by `step` for a word whose `op` is 0x8 to 0xF (R124, R500 code 2); the word takes no step (R126); safe. -/
  | reservedOp (w : Word)
  /-- Raised by `step` for a word with a nonzero field that R121 marks 0 (R124, R500 code 3); it takes no step (R126); safe. -/
  | reservedBitsNonzero (w : Word)
deriving DecidableEq, Repr

/-- The state of the core, the memory array it shares with the host, and the model's two interface fields. -/
structure State where
  /-- `REG[0..15]`, the register bank (R21). -/
  regs : Vector Byte 16
  /-- `mode`, the video mode (R23). -/
  mode : VideoMode
  /-- `hc`, the horizontal counter (R25). -/
  hc : BitVec 7
  /-- `vc`, the vertical counter (R26). -/
  vc : BitVec 9
  /-- `line_parity` (R35). -/
  lineParity : Bool
  /-- `field`, the NTSC interlace field (R36). -/
  field : Bool
  /-- `fstate`, the fetch state (R27). -/
  fstate : FetchState
  /-- `HCC`, the horizontal cell counter (R28). -/
  hcc : BitVec 7
  /-- `VCC`, the vertical cell counter (R29). -/
  vcc : BitVec 6
  /-- `CDC`, the cell depth counter (R30). -/
  cdc : BitVec 4
  /-- `VMC`, the video-matrix counter (R31). -/
  vmc : BitVec 10
  /-- `VMCL`, the video-matrix latch (R32). -/
  vmcl : BitVec 10
  /-- `code`, the screen-code latch (R33). -/
  code : Byte
  /-- `colr`, the colour latch (R33). -/
  colr : BitVec 4
  /-- `pipe[0..7]`, the colour-index pipeline; entry 0 is the next to be emitted (R34). -/
  pipe : Vector Colour 8
  /-- `fbcol`, the framebuffer column counter (R37). -/
  fbcol : BitVec 9
  /-- `ap`, the audio prescaler, below `AUDIO_PRESC_MOD` (R38). -/
  ap : Nat
  /-- `ctr[0..3]`, the channel down-counters (R39). -/
  ctr : Vector (BitVec 7) 4
  /-- `sr[0..3]`, the waveform shift registers (R40). -/
  sr : Vector Byte 4
  /-- `lfsr`, the noise shift register (R41). -/
  lfsr : BitVec 16
  /-- `due[0..3]` (R42). -/
  due : Vector Bool 4
  /-- `audio_level`, the mixed output level (R43). -/
  audioLevel : Byte
  /-- `OUT`, the composite command stream in emission order (R44). -/
  out : List CmdWord
  /-- `FB`, the framebuffer, one RGB332 byte a cell (R45, R137): the cell at line y and column x under the key
  `y * FB_WIDTH[S] + x`, an unlisted cell is 0. -/
  fb : Memory
  /-- `overrun`, the timing-fault counter (R46). -/
  overrun : BitVec 32
  /-- `MEM`, the emulated memory array (R47): an unlisted index reads as `MEM_INIT` (R531). -/
  mem : Memory
  /-- The stimuli the environment has issued and the machine has not yet consumed, oldest first (R13, R100).
  The model's own field (log entry 2). -/
  stim : List Word
  /-- What the latest stimulus returned (R500): the model's own field (log entry 3). -/
  reply : Reply
deriving DecidableEq, Repr

/-- The state RESET produces in the configuration `cfg`, with an empty stimulus queue and nothing listed in memory,
so that the memory array reads as `MEM_INIT` (R64, R530, R531). -/
def State.initial (cfg : Config) : State where
  regs := cfg.regInit
  mode := cfg.modeInit
  hc := 0
  vc := 0
  lineParity := false
  field := false
  fstate := .outsideMatrix
  hcc := 0
  vcc := 0
  cdc := 0
  vmc := 0
  vmcl := 0
  code := 0
  colr := 0
  pipe := #v[0, 0, 0, 0, 0, 0, 0, 0]
  fbcol := 0
  ap := 0
  ctr := #v[0, 0, 0, 0]
  sr := #v[0, 0, 0, 0]
  lfsr := cfg.lfsrInit
  due := #v[false, false, false, false]
  audioLevel := 0
  out := []
  fb := []
  overrun := 0
  mem := []
  stim := []
  reply := .none

/-- The machine right after reset (R531): power-on is the same as RESET. -/
def State.reset : State := State.initial hw

end Sys2Proof.Machine
end

