-- ==== Sys2Proof/Machine/Operands.lean ====
section
/-! DEFINITION. The operands of the rules: the fields of the register bank (10_state.md R50 to R61), the video mode's
code, standard and test flag (R24, R133), the fetch-state codes (R130), the line class and the visible window (R256, R257). -/

namespace Sys2Proof.Machine

/-- `REG[i]` (R10). -/
def State.reg (s : State) (i : RegIx) : Byte := s.regs[i]

/-- `REG[0][7]` INTERLACE (R50). -/
def State.interlace (s : State) : Bool := (s.reg 0).getLsbD 7

/-- `REG[0][6:0]` ORIGIN_X (R50). -/
def State.originX (s : State) : BitVec 7 := (s.reg 0).extractLsb' 0 7

/-- `REG[1]` ORIGIN_Y (R51). -/
def State.originY (s : State) : Byte := s.reg 1

/-- `REG[2][7]` SCREEN_VA9 (R52). -/
def State.screenVa9 (s : State) : Bool := (s.reg 2).getLsbD 7

/-- `REG[2][6:0]` COLUMNS (R52). -/
def State.columns (s : State) : BitVec 7 := (s.reg 2).extractLsb' 0 7

/-- `REG[3][6:1]` ROWS (R53). -/
def State.rows (s : State) : BitVec 6 := (s.reg 3).extractLsb' 1 6

/-- `REG[3][0]` TALL (R53). -/
def State.tall (s : State) : Bool := (s.reg 3).getLsbD 0

/-- `H`, the character cell height (R56). -/
def State.cellHeight (s : State) : Nat := if s.tall then 16 else 8

/-- `REG[5][7:4]` SCREEN_BASE (R55). -/
def State.screenBase (s : State) : BitVec 4 := (s.reg 5).extractLsb' 4 4

/-- `REG[5][3:0]` CHAR_BASE (R55). -/
def State.charBase (s : State) : BitVec 4 := (s.reg 5).extractLsb' 0 4

/-- The register of an audio channel: R10 to R13 (R59). -/
def channelReg (i : Channel) : RegIx := ⟨10 + i.val, by omega⟩

/-- `REG[10+i][7]` EN (R59, R382). -/
def State.channelEn (s : State) (i : Channel) : Bool := (s.reg (channelReg i)).getLsbD 7

/-- `REG[10+i][6:0]` FREQ (R59, R382). -/
def State.channelFreq (s : State) (i : Channel) : BitVec 7 := (s.reg (channelReg i)).extractLsb' 0 7

/-- `REG[14][7:4]` AUX_COLOUR (R60). -/
def State.auxColour (s : State) : Colour := (s.reg 14).extractLsb' 4 4

/-- `REG[14][3:0]` VOLUME (R60). -/
def State.volume (s : State) : BitVec 4 := (s.reg 14).extractLsb' 0 4

/-- `REG[15][7:4]` BG_COLOUR (R61). -/
def State.bgColour (s : State) : Colour := (s.reg 15).extractLsb' 4 4

/-- `REG[15][3]` NORMAL: false means reverse mode (R61). -/
def State.normal (s : State) : Bool := (s.reg 15).getLsbD 3

/-- `REG[15][2:0]` BORDER_COLOUR, zero-extended to a colour index (R61). -/
def State.borderColour (s : State) : Colour := ((s.reg 15).extractLsb' 0 3).setWidth 4

/-- The mode with a given code byte; codes 4 to 255 are none (R133). -/
def modeOfCode (m : Byte) : Option VideoMode :=
  match m.toNat with
  | 0 => some .pal
  | 1 => some .ntsc
  | 2 => some .palTest
  | 3 => some .ntscTest
  | _ => none

/-- The code of a mode, 2 bits (R23, R133). -/
def modeCode : VideoMode → BitVec 2
  | .pal => 0
  | .ntsc => 1
  | .palTest => 2
  | .ntscTest => 3

/-- The standard of a mode (R24). -/
def modeStandard : VideoMode → Standard
  | .pal => .pal
  | .ntsc => .ntsc
  | .palTest => .pal
  | .ntscTest => .ntsc

/-- The test flag of a mode (R24). -/
def modeTest : VideoMode → Bool
  | .pal => false
  | .ntsc => false
  | .palTest => true
  | .ntscTest => true

/-- `S`, the standard in force (R24). -/
def State.standard (s : State) : Standard := modeStandard s.mode

/-- `test` (R24). -/
def State.test (s : State) : Bool := modeTest s.mode

/-- The code of a fetch state (R130). -/
def fetchCode : FetchState → BitVec 4
  | .outsideMatrix => 0
  | .inMatrixY => 1
  | .inMatrixX => 2
  | .matrixLine => 3
  | .matrixDly1 => 4
  | .matrixDly2 => 5
  | .matrixDly3 => 6
  | .screenCode => 7
  | .charData => 8

/-- `VIS_END[S]`: 285 in PAL, OPEN in NTSC (R7, R256). -/
def visEnd (cfg : Config) : Standard → Nat
  | .pal => 285
  | .ntsc => cfg.visEndNtsc

/-- `VSYNC_END[S]`: 293 in PAL, OPEN in NTSC (R7, R256). -/
def vsyncEnd (cfg : Config) : Standard → Nat
  | .pal => 293
  | .ntsc => cfg.vsyncEndNtsc

/-- `LineClass(S, vc)` (R256). -/
def lineClass (cfg : Config) (S : Standard) (vc : BitVec 9) : LineClass :=
  if vc.toNat < visEnd cfg S then .visible
  else if vc.toNat < vsyncEnd cfg S then .vsync
  else .vblank

/-- `Visible(hc, vc)`: the line is in the visible class and hc is inside the window (R257). -/
def visible (cfg : Config) (S : Standard) (hc : BitVec 7) (vc : BitVec 9) : Bool :=
  decide (lineClass cfg S vc = .visible) && decide (cfg.hvisStart S ≤ hc.toNat) && decide (hc.toNat < cfg.hvisEnd S)

/-- `FRAME_LINES(S, REG)` (R255). -/
def State.frameLength (s : State) : Nat := frameLines s.standard s.interlace

/-- The four pixels of a batch, from the left (R330). -/
def pixels : List (Fin 4) := [0, 1, 2, 3]

end Sys2Proof.Machine
end

