-- ==== Sys2Proof/Machine/Ops.lean ====
section
/-! DEFINITION. The named operations over the stimulus queue, the register bank, memory, the framebuffer and the command
stream; the rejection of a configuration error, which is the block's one error (R501) and its only counterpart of an
exception (there is no trap entry and no return: R506, R509); and the reinitialisation of RESET (R530). -/

namespace Sys2Proof.Machine

/-! ## Memory cells -/

/-- Put a cell before the cells of higher addresses, unless it equals what its unlisted address reads as. -/
def Memory.put (init : Nat → Byte) (a : Nat) (v : Byte) (rest : Memory) : Memory :=
  if v = init a then rest else (a, v) :: rest

/-- Read one byte: the listed cell, else what the unlisted address reads as. -/
def Memory.read (init : Nat → Byte) : Memory → Nat → Byte
  | [], a => init a
  | c :: rest, a => if c.1 = a then c.2 else Memory.read init rest a

/-- Write one byte, keeping the canonical form. -/
def Memory.write (init : Nat → Byte) : Memory → Nat → Byte → Memory
  | [], a, v => Memory.put init a v []
  | c :: rest, a, v =>
    if c.1 < a then c :: Memory.write init rest a v
    else if c.1 = a then Memory.put init a v rest
    else Memory.put init a v (c :: rest)

/-- Every address of the cells is at least `lo`, and they rise strictly; no cell equals its unlisted reading. -/
def Memory.wfFrom (init : Nat → Byte) : Nat → Memory → Bool
  | _, [] => true
  | lo, c :: rest => decide (lo ≤ c.1) && decide (c.2 ≠ init c.1) && Memory.wfFrom init (c.1 + 1) rest

/-- The canonical form of a memory. -/
def Memory.wf (init : Nat → Byte) (m : Memory) : Bool := Memory.wfFrom init 0 m

/-- Every listed address satisfies `p`. -/
def Memory.within (p : Nat → Bool) (m : Memory) : Bool := m.all fun c => p c.1

/-! ## The memory array MEM -/

/-- `MemRead(i, 1)` (R10, R47). -/
def State.memByte (cfg : Config) (s : State) (i : MemIx) : Byte := s.mem.read cfg.memInit i.toNat

/-- `MemWrite(i, 1, v)` (R10, R430). -/
def State.setMemByte (cfg : Config) (s : State) (i : MemIx) (v : Byte) : State :=
  { s with mem := s.mem.write cfg.memInit i.toNat v }

/-- `VicRead(va)` (R94); an unconnected index reads the sentinel (R96, R504). -/
def vicRead (cfg : Config) (s : State) (va : ChipAddr) : Byte :=
  if cfg.openBus (cfg.vicToArray va) then cfg.openBusValue else s.memByte cfg (cfg.vicToArray va)

/-- The index of the colour cell of a screen location, `COLOUR_RAM_BASE + va[9:0]` (R95). -/
def colourIndex (cfg : Config) (va : ChipAddr) : MemIx := cfg.colourRamBase + (va.extractLsb' 0 10).setWidth 16

/-- `ColourRead(va)` (R95). -/
def colourRead (cfg : Config) (s : State) (va : ChipAddr) : BitVec 4 :=
  if cfg.openBus (colourIndex cfg va) then cfg.openBusValue.extractLsb' 0 4
  else (s.memByte cfg (colourIndex cfg va)).extractLsb' 0 4

/-! ## The register bank -/

/-- `REG[i] <- v` (R10, R241). -/
def State.setReg (s : State) (i : RegIx) (v : Byte) : State := { s with regs := s.regs.set i.val v i.isLt }

/-! ## The framebuffer -/

/-- What an unlisted cell of the framebuffer holds (R45, R64). -/
def fbInit (_ : Nat) : Byte := 0

/-- `FB[y][x]` exists: the buffer has `FB_HEIGHT[S]` lines of `FB_WIDTH[S]` columns (R45, R413). -/
def fbExists (cfg : Config) (S : Standard) (y x : Nat) : Bool := decide (y < cfg.fbHeight S) && decide (x < cfg.fbWidth S)

/-- The key of `FB[y][x]`: the bytes of the buffer in line order, `FB_WIDTH[S]` to a line, so that its cells have the keys 0
to `FB_HEIGHT[S] * FB_WIDTH[S] - 1`, each one key (R45, R413). -/
def fbKey (cfg : Config) (S : Standard) (y x : Nat) : Nat := y * cfg.fbWidth S + x

/-- A key that is some cell's in the buffer of the standard S (R45, R413). -/
def fbKeyInside (cfg : Config) (S : Standard) (k : Nat) : Bool := decide (k < cfg.fbHeight S * cfg.fbWidth S)

/-- `FB[y][x]`, if the buffer of the standard in force has that cell (R45, R413). -/
def State.fbCell (cfg : Config) (s : State) (y x : Nat) : Option Byte :=
  if fbExists cfg s.standard y x then some (s.fb.read fbInit (fbKey cfg s.standard y x)) else none

/-- `FB[y][x] <- p` where (y, x) lies in the buffer; elsewhere the pixel is dropped (R410). `y` is signed. -/
def fbPlot (cfg : Config) (S : Standard) (fb : Memory) (y : Int) (x : Nat) (p : Byte) : Memory :=
  if 0 ≤ y ∧ y < cfg.fbHeight S ∧ x < cfg.fbWidth S then fb.write fbInit (fbKey cfg S y.toNat x) p else fb

/-! ## The command stream -/

/-- `emit(ws)` (R351). -/
def State.emit (s : State) (ws : List CmdWord) : State := { s with out := s.out ++ ws }

/-! ## Replies, the one error, and reinitialisation -/

/-- Record what a stimulus returns to its issuer (R500). -/
def State.answer (s : State) (r : Reply) : State := { s with reply := r }

/-- `reject ConfigError(m)`: return the error to the caller and change nothing (R10, R501). -/
def rejectConfigError (m : Byte) (s : State) : State := s.answer (.configError m)

/-- Every field of the core at its reset value; MEM is not touched, and neither is the queue of stimuli not yet
consumed, which belongs to the environment (R434, R530). -/
def reinitialise (cfg : Config) (s : State) : State :=
  { State.initial cfg with mem := s.mem, stim := s.stim, reply := s.reply }

/-! ## The stimulus queue -/

/-- The oldest pending stimulus word and the state without it (R13: one word per step, in order). -/
def fetchStimulus (s : State) : Option (Word × State) :=
  match s.stim with
  | [] => none
  | w :: rest => some (w, { s with stim := rest })

/-- The refusal of a step for a word the decoder refuses (R124, R502). -/
def refusalOf (w : Word) : DecodeRefusal → Refusal
  | .reservedOp => .reservedOp w
  | .reservedBitsNonzero => .reservedBitsNonzero w

/-- A word put at the head of the queue, where the next step fetches it. -/
def State.pushStimulus (s : State) (w : Word) : State := { s with stim := w :: s.stim }

end Sys2Proof.Machine
end

