-- ==== Sys2Proof/Machine/Flags.lean ====
section
/-! DEFINITION. The block has no status flags or condition codes (10_state.md R48). The status that can be observed
instead: the outcome codes of R500, the raster readback fields `REG[3][7]` and `REG[4]` (R258), and DIAG's record (R438). -/

namespace Sys2Proof.Machine

/-- The outcome code of a reply (R500): 0 OK, 1 CONFIG_ERROR; none before the first stimulus. -/
def outcomeCode : Reply → Option Nat
  | .none => none
  | .ok => some 0
  | .byte _ => some 0
  | .diag _ => some 0
  | .configError _ => some 1

/-- The outcome code of a refused word (R500): 2 RESERVED_OP, 3 RESERVED_BITS_NONZERO. -/
def refusalCode : Refusal → Option Nat
  | .reservedOp _ => some 2
  | .reservedBitsNonzero _ => some 3
  | _ => none

/-- `REG[3]` with its bit 7, RASTER_LSB, replaced (R53, R258). -/
def withRasterLsb (r3 : Byte) (b : Bool) : Byte := BitVec.ofBool b ++ r3.extractLsb' 0 7

/-- `RasterUpdate()`: `REG[4] <- vc[8:1]`, `REG[3][7] <- vc[0]` (R258). -/
def rasterUpdate (s : State) : State :=
  (s.setReg 4 (s.vc.extractLsb' 1 8)).setReg 3 (withRasterLsb (s.reg 3) (s.vc.getLsbD 0))

/-- The raster line the host reads back in R4 and R3[7] (R258, R536). -/
def State.rasterReadback (s : State) : BitVec 9 := s.reg 4 ++ BitVec.ofBool ((s.reg 3).getLsbD 7)

/-- The record DIAG returns (R438). -/
def diagRecord (s : State) : DiagRecord := ⟨s.overrun, s.mode, s.due⟩

end Sys2Proof.Machine
end

