-- ==== Sys2Proof/Machine/HostOps.lean ====
section
/-! DEFINITION. The host operations MEMW, MODE, RESET, OVERRUN and DIAG (47_host_ops.md). -/

namespace Sys2Proof.Machine

/-- MEMW a, d: `MEM[a] <- d` (R430); the register bank is separate state and does not change (R431). -/
def execMemw (a : MemIx) (d : Byte) (s : State) : Host.Outcome State Fault Refusal :=
  .next ((s.setMemByte hw a d).answer .ok)

/-- The accepted mode takes effect: the sequencing restarts at the top of a frame, and a change of standard reshapes
the framebuffer and clears it (R432). -/
def acceptMode (v : VideoMode) (s : State) : State :=
  { s with
    mode := v
    hc := 0
    vc := 0
    fstate := .outsideMatrix
    fbcol := 0
    lineParity := false
    field := false
    fb := if modeStandard v = s.standard then s.fb else [] }

/-- `MODE(m)` (R432): rejected with ConfigError(m) if m > 3 or the revision check fails (R501). -/
def selectMode (cfg : Config) (m : Byte) (s : State) : State :=
  match modeOfCode m with
  | none => rejectConfigError m s
  | some v => if cfg.modeOk v then (acceptMode v s).answer .ok else rejectConfigError m s

/-- MODE m (R432). A rejected code is an answer, not a refusal (R125, R126): the machine goes on unchanged. -/
def execMode (m : Byte) (s : State) : Host.Outcome State Fault Refusal := .next (selectMode hw m s)

/-- RESET (R434). -/
def execReset (s : State) : Host.Outcome State Fault Refusal := .next ((reinitialise hw s).answer .ok)

/-- `overrun <- (overrun + 1) mod 2^32` (R436). -/
def countOverrun (s : State) : State := { s with overrun := s.overrun + 1 }

/-- OVERRUN (R436); nothing else changes (R437). -/
def execOverrun (s : State) : Host.Outcome State Fault Refusal := .next ((countOverrun s).answer .ok)

/-- DIAG (R438): read-only. -/
def execDiag (s : State) : Host.Outcome State Fault Refusal := .next (s.answer (.diag (diagRecord s)))

end Sys2Proof.Machine
end

