-- ==== Sys2Proof/Machine/RegisterBank.lean ====
section
/-! DEFINITION. Register bank access: RD R0 to R15 and WR R0 to R15 (40_register_bank.md). One meaning per row, each over
the shared read (R240) or the shared write (R241). -/

namespace Sys2Proof.Machine

/-- A register read: the byte goes to the host, and nothing else changes (R240). -/
def readRegister (n : RegIx) (s : State) : Host.Outcome State Fault Refusal := .next (s.answer (.byte (s.reg n)))

/-- A register write: all 8 bits are stored, and nothing else changes (R241). -/
def writeRegister (n : RegIx) (d : Byte) (s : State) : Host.Outcome State Fault Refusal :=
  .next ((s.setReg n d).answer .ok)

/-- RD R0 (R200). -/
def execRdR0 (s : State) : Host.Outcome State Fault Refusal := readRegister 0 s

/-- RD R1 (R201). -/
def execRdR1 (s : State) : Host.Outcome State Fault Refusal := readRegister 1 s

/-- RD R2 (R202). -/
def execRdR2 (s : State) : Host.Outcome State Fault Refusal := readRegister 2 s

/-- RD R3 (R203). -/
def execRdR3 (s : State) : Host.Outcome State Fault Refusal := readRegister 3 s

/-- RD R4 (R204). -/
def execRdR4 (s : State) : Host.Outcome State Fault Refusal := readRegister 4 s

/-- RD R5 (R205). -/
def execRdR5 (s : State) : Host.Outcome State Fault Refusal := readRegister 5 s

/-- RD R6 (R206). -/
def execRdR6 (s : State) : Host.Outcome State Fault Refusal := readRegister 6 s

/-- RD R7 (R207). -/
def execRdR7 (s : State) : Host.Outcome State Fault Refusal := readRegister 7 s

/-- RD R8 (R208). -/
def execRdR8 (s : State) : Host.Outcome State Fault Refusal := readRegister 8 s

/-- RD R9 (R209). -/
def execRdR9 (s : State) : Host.Outcome State Fault Refusal := readRegister 9 s

/-- RD R10 (R210). -/
def execRdR10 (s : State) : Host.Outcome State Fault Refusal := readRegister 10 s

/-- RD R11 (R211). -/
def execRdR11 (s : State) : Host.Outcome State Fault Refusal := readRegister 11 s

/-- RD R12 (R212). -/
def execRdR12 (s : State) : Host.Outcome State Fault Refusal := readRegister 12 s

/-- RD R13 (R213). -/
def execRdR13 (s : State) : Host.Outcome State Fault Refusal := readRegister 13 s

/-- RD R14 (R214). -/
def execRdR14 (s : State) : Host.Outcome State Fault Refusal := readRegister 14 s

/-- RD R15 (R215). -/
def execRdR15 (s : State) : Host.Outcome State Fault Refusal := readRegister 15 s

/-- WR R0, d (R220). -/
def execWrR0 (d : Byte) (s : State) : Host.Outcome State Fault Refusal := writeRegister 0 d s

/-- WR R1, d (R221). -/
def execWrR1 (d : Byte) (s : State) : Host.Outcome State Fault Refusal := writeRegister 1 d s

/-- WR R2, d (R222). -/
def execWrR2 (d : Byte) (s : State) : Host.Outcome State Fault Refusal := writeRegister 2 d s

/-- WR R3, d (R223). -/
def execWrR3 (d : Byte) (s : State) : Host.Outcome State Fault Refusal := writeRegister 3 d s

/-- WR R4, d (R224). -/
def execWrR4 (d : Byte) (s : State) : Host.Outcome State Fault Refusal := writeRegister 4 d s

/-- WR R5, d (R225). -/
def execWrR5 (d : Byte) (s : State) : Host.Outcome State Fault Refusal := writeRegister 5 d s

/-- WR R6, d (R226). -/
def execWrR6 (d : Byte) (s : State) : Host.Outcome State Fault Refusal := writeRegister 6 d s

/-- WR R7, d (R227). -/
def execWrR7 (d : Byte) (s : State) : Host.Outcome State Fault Refusal := writeRegister 7 d s

/-- WR R8, d (R228). -/
def execWrR8 (d : Byte) (s : State) : Host.Outcome State Fault Refusal := writeRegister 8 d s

/-- WR R9, d (R229). -/
def execWrR9 (d : Byte) (s : State) : Host.Outcome State Fault Refusal := writeRegister 9 d s

/-- WR R10, d (R230). -/
def execWrR10 (d : Byte) (s : State) : Host.Outcome State Fault Refusal := writeRegister 10 d s

/-- WR R11, d (R231). -/
def execWrR11 (d : Byte) (s : State) : Host.Outcome State Fault Refusal := writeRegister 11 d s

/-- WR R12, d (R232). -/
def execWrR12 (d : Byte) (s : State) : Host.Outcome State Fault Refusal := writeRegister 12 d s

/-- WR R13, d (R233). -/
def execWrR13 (d : Byte) (s : State) : Host.Outcome State Fault Refusal := writeRegister 13 d s

/-- WR R14, d (R234). -/
def execWrR14 (d : Byte) (s : State) : Host.Outcome State Fault Refusal := writeRegister 14 d s

/-- WR R15, d (R235). -/
def execWrR15 (d : Byte) (s : State) : Host.Outcome State Fault Refusal := writeRegister 15 d s

end Sys2Proof.Machine
end

