-- ==== Sys2Proof/Machine/Pixel.lean ====
section
/-! DEFINITION. The colour-index pipeline and the character decode (43_pixel_pipeline.md). -/

namespace Sys2Proof.Machine

/-- The batch PixelOut returns: the four entries at the head of the pipeline (R330). -/
def pixelBatch (s : State) : Vector Colour 4 := #v[s.pipe[0], s.pipe[1], s.pipe[2], s.pipe[3]]

/-- PixelOut's effect: the four left entries move up and the border colour fills the freed ones (R330, R331). -/
def pixelRefill (s : State) : State :=
  { s with pipe := #v[s.pipe[4], s.pipe[5], s.pipe[6], s.pipe[7],
      s.borderColour, s.borderColour, s.borderColour, s.borderColour] }

/-- One hi-res pixel: bit `j` of the byte, inverted in reverse mode, selects foreground or background (R334). -/
def hiResPixel (bg fg : Colour) (rev : Bool) (b : Byte) (j : Nat) : Colour :=
  if (b.getLsbD j ^^ rev) = true then fg else bg

/-- `HiRes(b, fg)`: the most significant bit first (R334). -/
def hiRes (bg fg : Colour) (rev : Bool) (b : Byte) : Vector Colour 8 :=
  #v[hiResPixel bg fg rev b 7, hiResPixel bg fg rev b 6, hiResPixel bg fg rev b 5, hiResPixel bg fg rev b 4,
     hiResPixel bg fg rev b 3, hiResPixel bg fg rev b 2, hiResPixel bg fg rev b 1, hiResPixel bg fg rev b 0]

/-- One multicolour pair: bits `j + 1` and `j` of the byte select among the four colours (R335). -/
def multiPair (bg border fg aux : Colour) (b : Byte) (j : Nat) : Colour :=
  match b.getLsbD (j + 1), b.getLsbD j with
  | false, false => bg
  | false, true => border
  | true, false => fg
  | true, true => aux

/-- `Multi(b, fg)`: the most significant pair first, each pair two pixels wide (R335). -/
def multi (bg border fg aux : Colour) (b : Byte) : Vector Colour 8 :=
  #v[multiPair bg border fg aux b 6, multiPair bg border fg aux b 6,
     multiPair bg border fg aux b 4, multiPair bg border fg aux b 4,
     multiPair bg border fg aux b 2, multiPair bg border fg aux b 2,
     multiPair bg border fg aux b 0, multiPair bg border fg aux b 0]

/-- `zext_4(colr[2:0])`, the foreground colour of a colour nibble (R333). -/
def foreground (colr : BitVec 4) : Colour := (colr.extractLsb' 0 3).setWidth 4

/-- `Decode(b, colr)`: bit 3 of the colour nibble selects the mode (R333). -/
def decodeChar (s : State) (b : Byte) (colr : BitVec 4) : Vector Colour 8 :=
  if colr.getLsbD 3 then multi s.bgColour s.borderColour (foreground colr) s.auxColour b
  else hiRes s.bgColour (foreground colr) (!s.normal) b

/-- The batch the encoder and the framebuffer get: the test pattern in a test mode, else the pipeline's batch (R267). -/
def shownBatch (cfg : Config) (s : State) (hc0 : BitVec 7) (vc0 : BitVec 9) (batch : Vector Colour 4) : Vector Colour 4 :=
  if s.test then
    #v[cfg.testPattern s.standard vc0 hc0 0, cfg.testPattern s.standard vc0 hc0 1,
       cfg.testPattern s.standard vc0 hc0 2, cfg.testPattern s.standard vc0 hc0 3]
  else batch

end Sys2Proof.Machine
end

