-- ==== Sys2Proof/Machine/Fetch.lean ====
section
/-! DEFINITION. The fetch pass of a TICK: the fetch state machine (42_fetch_fsm.md R290 to R301). -/

namespace Sys2Proof.Machine

/-- `ScreenAddr()` (R297): SCREEN_BASE in bits 13:10, SCREEN_VA9 in bit 9, plus VMC, mod 2^14. -/
def screenAddr (s : State) : ChipAddr :=
  (s.screenBase ++ BitVec.ofBool s.screenVa9 ++ (0 : BitVec 9)) + s.vmc.setWidth 14

/-- `CharAddr()` (R299): CHAR_BASE in bits 13:10, plus code * H + CDC, mod 2^14. -/
def charAddr (s : State) : ChipAddr :=
  (s.charBase ++ (0 : BitVec 10)) + BitVec.ofNat 14 (s.code.toNat * s.cellHeight + s.cdc.toNat)

/-- `MatrixOpen()` (R292). -/
def matrixOpen (s : State) : State :=
  { s with fstate := .inMatrixY, vcc := s.rows, cdc := 0, vmc := 0, vmcl := 0 }

/-- The OUTSIDE_MATRIX arm: the Y comparison, `vc0 >> 1` with ORIGIN_Y (R291). -/
def yCompare (vc0 : BitVec 9) (s : State) : State :=
  if vc0.toNat / 2 = s.originY.toNat then matrixOpen s else s

/-- The IN_MATRIX_Y and IN_MATRIX_X arms: the X comparison, `hc0` with ORIGIN_X (R293). -/
def xCompare (hc0 : BitVec 7) (s : State) : State :=
  if hc0 = s.originX then { s with fstate := .matrixDly1 } else s

/-- The state that fetching goes to, by the cells left on the line (R296, R300). -/
def fetchOrRest (hcc : BitVec 7) : FetchState := if hcc = 0 then .matrixLine else .screenCode

/-- `ScreenCodeFetch()` (R298). -/
def screenCodeFetch (cfg : Config) (s : State) : State :=
  { s with code := vicRead cfg s (screenAddr s), colr := colourRead cfg s (screenAddr s), fstate := .charData }

/-- `CharDataFetch()` (R300). -/
def charDataFetch (cfg : Config) (s : State) : State :=
  { s with
    pipe := decodeChar s (vicRead cfg s (charAddr s)) s.colr
    vmc := s.vmc + 1
    hcc := s.hcc - 1
    fstate := fetchOrRest (s.hcc - 1) }

/-- `FetchPass(hc0, vc0)` (R290). -/
def fetchPass (cfg : Config) (hc0 : BitVec 7) (vc0 : BitVec 9) (s : State) : State :=
  match s.fstate with
  | .outsideMatrix => yCompare vc0 s
  | .inMatrixY => xCompare hc0 s
  | .inMatrixX => xCompare hc0 s
  | .matrixDly1 => { s with fstate := .matrixDly2 }
  | .matrixDly2 => { s with fstate := .matrixDly3 }
  | .matrixDly3 => { s with fstate := fetchOrRest s.hcc }
  | .screenCode => screenCodeFetch cfg s
  | .charData => charDataFetch cfg s
  | .matrixLine => s

end Sys2Proof.Machine
end

