-- ==== Sys2Proof/Machine/Encoder.lean ====
section
/-! DEFINITION. The composite video encoder (44_composite_encoder.md) and the command-word macros of 30_encoding.md R134. -/

namespace Sys2Proof.Machine

/-- The pixel command is the truncated one: pixel 3 of the last cycle of the visible window (R356). -/
def truncated (cfg : Config) (S : Standard) (hc0 : BitVec 7) (k : Fin 4) : Bool :=
  decide (hc0.toNat + 1 = cfg.hvisEnd S) && decide (k = 3)

/-- A PAL pixel word (R354, R356). -/
def palPixelWord (cfg : Config) (trunc parity : Bool) (c : Colour) : CmdWord :=
  ⟨cfg.cmdWidth .pal, if trunc then cfg.palPixTrunc parity c else cfg.palPix parity c⟩

/-- An NTSC pixel word of a carrier-phase row (R355, R356). -/
def ntscPixelWord (cfg : Config) (trunc : Bool) (row : BitVec 3) (c : Colour) : CmdWord :=
  ⟨cfg.cmdWidth .ntsc, if trunc then cfg.ntscPixTrunc row c else cfg.ntscPix row c⟩

/-- The command word of pixel k of a visible cycle (R350). -/
def pixelWord (cfg : Config) (S : Standard) (parity : Bool) (hc0 : BitVec 7) (k : Fin 4) (c : Colour) : CmdWord :=
  match S with
  | .pal => palPixelWord cfg (truncated cfg .pal hc0 k) parity c
  | .ntsc => ntscPixelWord cfg (truncated cfg .ntsc hc0 k) (cfg.ntscRow parity hc0 k) c

/-- The sync, blanking and burst words of a cycle (R353). -/
def syncWords (cfg : Config) (S : Standard) (parity field : Bool) (hc0 : BitVec 7) (vc0 : BitVec 9) : List CmdWord :=
  (cfg.syncCmds S (lineClass cfg S vc0) parity field hc0).map fun b => ⟨cfg.cmdWidth S, b⟩

/-- The words one tick emits: a function of S, the position, the parity, the field and the batch alone (R350, R359). -/
def encoderWords (cfg : Config) (S : Standard) (parity field : Bool) (hc0 : BitVec 7) (vc0 : BitVec 9)
    (batch : Vector Colour 4) : List CmdWord :=
  syncWords cfg S parity field hc0 vc0 ++
    (if visible cfg S hc0 vc0 then pixels.map fun k => pixelWord cfg S parity hc0 k batch[k] else [])

/-- `EncoderStep(hc0, vc0, batch)` (R350). -/
def encoderStep (cfg : Config) (hc0 : BitVec 7) (vc0 : BitVec 9) (batch : Vector Colour 4) (s : State) : State :=
  s.emit (encoderWords cfg s.standard s.lineParity s.field hc0 vc0 batch)

/-! ## Command macros (R134, R135) -/

/-- `CMD_S(level, delay, count)` (R134). -/
def cmdBuild {w : Nat} (l : CmdLayout w) (level delay count : Nat) : BitVec w :=
  l.base ||| (BitVec.ofNat w level <<< l.lvlLo) ||| (BitVec.ofNat w delay <<< l.dlyLo) |||
    (BitVec.ofNat w count <<< l.cntLo)

/-- `LEVEL_S(w)` (R134). -/
def cmdLevel {w : Nat} (l : CmdLayout w) (x : BitVec w) : Nat := (x.extractLsb' l.lvlLo l.lvlW).toNat

/-- `DELAY_S(w)` (R134). -/
def cmdDelay {w : Nat} (l : CmdLayout w) (x : BitVec w) : Nat := (x.extractLsb' l.dlyLo l.dlyW).toNat

/-- `COUNT_S(w)` (R134). -/
def cmdCount {w : Nat} (l : CmdLayout w) (x : BitVec w) : Nat := (x.extractLsb' l.cntLo l.cntW).toNat

end Sys2Proof.Machine
end

