-- ==== Sys2Proof/Machine/Framebuffer.lean ====
section
/-! DEFINITION. The digital framebuffer writer and its pixel format (46_framebuffer.md, 30_encoding.md R137). -/

namespace Sys2Proof.Machine

/-- The byte of a pixel in RGB332: red in bits 7:5, green in bits 4:2, blue in bits 1:0 (R137, R412; decision D34: the
source leaves the bit order open). -/
def rgb332 (red green : BitVec 3) (blue : BitVec 2) : Byte := red ++ green ++ blue

/-- The red channel of a pixel, bits 7:5 (R137). -/
def pixelRed (p : Byte) : BitVec 3 := p.extractLsb' 5 3

/-- The green channel of a pixel, bits 4:2 (R137). -/
def pixelGreen (p : Byte) : BitVec 3 := p.extractLsb' 2 3

/-- The blue channel of a pixel, bits 1:0 (R137). -/
def pixelBlue (p : Byte) : BitVec 2 := p.extractLsb' 0 2

/-- The framebuffer line of a raster line, a signed integer (R410, R413). -/
def fbLine (cfg : Config) (S : Standard) (vc0 : BitVec 9) : Int := (vc0.toNat : Int) - cfg.fbLineOffset S

/-- The framebuffer with pixel k of the batch plotted (R410). -/
def fbPixel (cfg : Config) (S : Standard) (vc0 : BitVec 9) (fbcol : BitVec 9) (batch : Vector Colour 4)
    (fb : Memory) (k : Fin 4) : Memory :=
  fbPlot cfg S fb (fbLine cfg S vc0) (fbcol.toNat + k.val) (cfg.fbColour batch[k])

/-- `FramebufferStep(hc0, vc0, batch)` (R410, R411). Columns come from R410's counter. Where HC_VC_INC lies inside the visible window,
the first visible line after blanking begins in the middle of the window with fbcol 0, and there R411's closed form
`4 * (hc0 - HVIS_START)` and R414's coverage do not follow from R410; the model keeps R410 (DEDUCED, log entry 22). -/
def framebufferStep (cfg : Config) (hc0 : BitVec 7) (vc0 : BitVec 9) (batch : Vector Colour 4) (s : State) : State :=
  if visible cfg s.standard hc0 vc0 then
    { s with
      fb := pixels.foldl (fbPixel cfg s.standard vc0 s.fbcol batch) s.fb
      fbcol := s.fbcol + 4 }
  else s

end Sys2Proof.Machine
end

