-- ==== Sys2Proof/Machine/Audio.lean ====
section
/-! DEFINITION. The audio synthesizer (45_audio.md). -/

namespace Sys2Proof.Machine

/-- The waveform shift of R386: left by one, the new bit the inverse of the top bit, gated by the enable. -/
def waveShift (r : Byte) (en : Bool) : Byte := (r <<< 1) ||| (BitVec.ofBool (!r.getLsbD 7 && en)).setWidth 8

/-- `ToneStep(i, en)` (R386). -/
def toneStep (i : Channel) (en : Bool) (s : State) : State :=
  { s with sr := s.sr.set i.val (waveShift s.sr[i] en) i.isLt }

/-- The feedback bit of a noise step: the XOR of taps 15, 14, 12 and 3, forced to 1 when disabled (R388). -/
def noiseFeedback (l : BitVec 16) (en : Bool) : Bool :=
  if en then l.getLsbD 15 ^^ l.getLsbD 14 ^^ l.getLsbD 12 ^^ l.getLsbD 3 else true

/-- The shift of the LFSR: left by one, the feedback bit into bit 0 (R388). -/
def lfsrShift (l : BitVec 16) (en : Bool) : BitVec 16 := (l <<< 1) ||| (BitVec.ofBool (noiseFeedback l en)).setWidth 16

/-- `NoiseStep(en)`: the waveform register steps exactly when the feedback bit is 1 (R388, R389). -/
def noiseStep (en : Bool) (s : State) : State :=
  { s with
    lfsr := lfsrShift s.lfsr en
    sr := if noiseFeedback s.lfsr en then s.sr.set 3 (waveShift s.sr[3] en) else s.sr }

/-- The waveform step of a channel (R380). -/
def waveStep (i : Channel) (en : Bool) (s : State) : State :=
  if i.val < 3 then toneStep i en s else noiseStep en s

/-- Channel i is clocked at a prescaler value (R381). -/
def clocked (cfg : Config) (ap : Nat) (i : Channel) : Bool := decide (ap % cfg.audioDiv[i] = cfg.audioPhase[i])

/-- The reload value of a channel's counter, modulo 128 (R384). -/
def reloadValue (cfg : Config) (freq : BitVec 7) : BitVec 7 := 0x7F - freq + cfg.audioReloadOffset

/-- The channel's counter and due flag written. -/
def State.setChannel (s : State) (i : Channel) (c : BitVec 7) (d : Bool) : State :=
  { s with ctr := s.ctr.set i.val c i.isLt, due := s.due.set i.val d i.isLt }

/-- One pass of AudioTick's loop: channel i (R380 to R385). -/
def channelStep (cfg : Config) (s : State) (i : Channel) : State :=
  if clocked cfg s.ap i then
    if s.ctr[i] = cfg.audioTerminal then
      waveStep i (s.channelEn i) (s.setChannel i (reloadValue cfg (s.channelFreq i)) true)
    else s.setChannel i (s.ctr[i] - 1) false
  else s.setChannel i s.ctr[i] false

/-- `out(i)`, the tri-level output of a channel (R392). -/
def channelOut (s : State) (i : Channel) : Int :=
  if s.channelEn i then (if (s.sr[i]).getLsbD 0 then 1 else -1) else 0

/-- The sum of the four outputs, exact (R393). -/
def channelSum (s : State) : Int := channelOut s 0 + channelOut s 1 + channelOut s 2 + channelOut s 3

/-- `Mix()` as an exact integer (R394). -/
def mixLevel (cfg : Config) (s : State) : Int := channelSum s * (s.volume.toNat : Int) + (cfg.audioBias : Int)

/-- The four channels in order (R380). -/
def channels : List Channel := [0, 1, 2, 3]

/-- The prescaler's step (R380, R381). -/
def advancePrescaler (cfg : Config) (s : State) : State := { s with ap := (s.ap + 1) % cfg.audioPrescMod }

/-- The level written to the mailbox (R394, R395), held in 8 bits (R43). -/
def mixDown (cfg : Config) (s : State) : State := { s with audioLevel := BitVec.ofInt 8 (mixLevel cfg s) }

/-- `AudioTick()` (R380). -/
def audioTick (cfg : Config) (s : State) : State :=
  mixDown cfg (advancePrescaler cfg (channels.foldl (channelStep cfg) s))

end Sys2Proof.Machine
end

