-- ==== Sys2Proof/Machine/Raster.lean ====
section
/-! DEFINITION. The horizontal pass of a TICK: raster update, vertical increment, frame start, new line and row
accounting (41_cycle_tick.md R258 to R263). -/

namespace Sys2Proof.Machine

/-- `FrameStart()` (R261). -/
def frameStart (s : State) : State :=
  { s with
    fstate := .outsideMatrix
    field := if s.standard = .ntsc ∧ s.interlace = true then !s.field else s.field }

/-- `VerticalIncrement()` (R260). -/
def verticalIncrement (s : State) : State :=
  if s.frameLength ≤ s.vc.toNat + 1 then frameStart { s with vc := 0 } else { s with vc := s.vc + 1 }

/-- The fetch states in which a new line counts as a matrix line: X has matched on it (R263). -/
def xMatched : FetchState → Bool
  | .outsideMatrix => false
  | .inMatrixY => false
  | .inMatrixX => false
  | .matrixLine => true
  | .matrixDly1 => true
  | .matrixDly2 => true
  | .matrixDly3 => true
  | .screenCode => true
  | .charData => true

/-- The end of a character row: the next row starts after this row's cells, and the matrix closes when VCC reaches 0 (R263). -/
def rowEnd (s : State) : State :=
  { s with
    cdc := 0
    vmcl := s.vmc
    vcc := s.vcc - 1
    fstate := if s.vcc - 1 = 0 then .outsideMatrix else .inMatrixX }

/-- A further line of the same row (R263). -/
def rowContinue (s : State) : State := { s with cdc := s.cdc + 1, vmc := s.vmcl, fstate := .inMatrixX }

/-- `RowAccounting()` (R263). At a row end VMC is reloaded from the VMCL just latched from it, so it keeps its value. -/
def rowAccounting (s : State) : State :=
  if xMatched s.fstate then
    if s.cellHeight ≤ s.cdc.toNat + 1 then rowEnd s else rowContinue s
  else s

/-- The reloads of a new line: HCC, fbcol, line parity (R262). -/
def lineReload (s : State) : State := { s with hcc := s.columns, fbcol := 0, lineParity := !s.lineParity }

/-- `NewLine()` (R262). -/
def newLine (s : State) : State := rowAccounting (lineReload s)

/-- The raster update, at its cycle (R258). -/
def rasterPhase (cfg : Config) (hc0 : BitVec 7) (s : State) : State :=
  if hc0.toNat = cfg.hcRaster s.standard then rasterUpdate s else s

/-- The vertical increment, at its cycle (R260). -/
def verticalPhase (cfg : Config) (hc0 : BitVec 7) (s : State) : State :=
  if hc0.toNat = cfg.hcVcInc s.standard then verticalIncrement s else s

/-- The horizontal counter's step, and the new-line event at its wrap (R259, R262). -/
def linePhase (hc0 : BitVec 7) (s : State) : State :=
  if hc0.toNat + 1 = lineCycles s.standard then newLine { s with hc := 0 } else { s with hc := hc0 + 1 }

/-- `HorizontalPass(hc0)` (41_cycle_tick.md section 3). -/
def horizontalPass (cfg : Config) (hc0 : BitVec 7) (s : State) : State :=
  linePhase hc0 (verticalPhase cfg hc0 (rasterPhase cfg hc0 s))

end Sys2Proof.Machine
end

