-- ==== Sys2Proof/Machine/Tick.lean ====
section
/-! DEFINITION. TICK: the passes of one cycle in their order (41_cycle_tick.md R250). -/

namespace Sys2Proof.Machine

/-- The part of a TICK before the horizontal pass: PixelOut, FetchPass, the test pattern, EncoderStep, FramebufferStep
and AudioTick (R250). -/
def cyclePasses (cfg : Config) (s : State) : State :=
  let fetched := fetchPass cfg s.hc s.vc (pixelRefill s)
  let batch := shownBatch cfg s s.hc s.vc (pixelBatch s)
  audioTick cfg (framebufferStep cfg s.hc s.vc batch (encoderStep cfg s.hc s.vc batch fetched))

/-- One TICK in the configuration `cfg` (R250). It never fails (R505). -/
def tick (cfg : Config) (s : State) : State := horizontalPass cfg s.hc (cyclePasses cfg s)

/-- TICK (R250). -/
def execTick (s : State) : Host.Outcome State Fault Refusal := .next ((tick hw s).answer .ok)

end Sys2Proof.Machine
end

