-- ==== Sys2Proof/Machine/Dispatch.lean ====
section
/-! DEFINITION. The dispatch of a stimulus to its meaning, one arm per row of the opcode table. -/

namespace Sys2Proof.Machine

def exec (i : Instr) (s : State) : Host.Outcome State Fault Refusal :=
  match i with
  | .tick => Sys2Proof.Machine.execTick s
  | .rdR0 => Sys2Proof.Machine.execRdR0 s
  | .rdR1 => Sys2Proof.Machine.execRdR1 s
  | .rdR2 => Sys2Proof.Machine.execRdR2 s
  | .rdR3 => Sys2Proof.Machine.execRdR3 s
  | .rdR4 => Sys2Proof.Machine.execRdR4 s
  | .rdR5 => Sys2Proof.Machine.execRdR5 s
  | .rdR6 => Sys2Proof.Machine.execRdR6 s
  | .rdR7 => Sys2Proof.Machine.execRdR7 s
  | .rdR8 => Sys2Proof.Machine.execRdR8 s
  | .rdR9 => Sys2Proof.Machine.execRdR9 s
  | .rdR10 => Sys2Proof.Machine.execRdR10 s
  | .rdR11 => Sys2Proof.Machine.execRdR11 s
  | .rdR12 => Sys2Proof.Machine.execRdR12 s
  | .rdR13 => Sys2Proof.Machine.execRdR13 s
  | .rdR14 => Sys2Proof.Machine.execRdR14 s
  | .rdR15 => Sys2Proof.Machine.execRdR15 s
  | .wrR0 d => Sys2Proof.Machine.execWrR0 d s
  | .wrR1 d => Sys2Proof.Machine.execWrR1 d s
  | .wrR2 d => Sys2Proof.Machine.execWrR2 d s
  | .wrR3 d => Sys2Proof.Machine.execWrR3 d s
  | .wrR4 d => Sys2Proof.Machine.execWrR4 d s
  | .wrR5 d => Sys2Proof.Machine.execWrR5 d s
  | .wrR6 d => Sys2Proof.Machine.execWrR6 d s
  | .wrR7 d => Sys2Proof.Machine.execWrR7 d s
  | .wrR8 d => Sys2Proof.Machine.execWrR8 d s
  | .wrR9 d => Sys2Proof.Machine.execWrR9 d s
  | .wrR10 d => Sys2Proof.Machine.execWrR10 d s
  | .wrR11 d => Sys2Proof.Machine.execWrR11 d s
  | .wrR12 d => Sys2Proof.Machine.execWrR12 d s
  | .wrR13 d => Sys2Proof.Machine.execWrR13 d s
  | .wrR14 d => Sys2Proof.Machine.execWrR14 d s
  | .wrR15 d => Sys2Proof.Machine.execWrR15 d s
  | .memw a d => Sys2Proof.Machine.execMemw a d s
  | .mode m => Sys2Proof.Machine.execMode m s
  | .reset => Sys2Proof.Machine.execReset s
  | .overrun => Sys2Proof.Machine.execOverrun s
  | .diag => Sys2Proof.Machine.execDiag s

end Sys2Proof.Machine
end

