-- ==== Sys2Proof/Machine/Step.lean ====
section
/-! DEFINITION. One step: the oldest pending stimulus word is consumed, decoded and run (00_scope.md R13, 20_memory.md
R100). With nothing pending the machine waits unchanged: it never makes its own timing (R252, R515). -/

namespace Sys2Proof.Machine

def step (s : State) : Host.Outcome State Fault Refusal :=
  match fetchStimulus s with
  | none => .next s
  | some (w, s') =>
    match decode w with
    | .instr i => exec i s'
    | .refused r => .refused (refusalOf w r)

/-- The state in which the next step fetches the word with those bits. -/
def State.withFetchWord (s : State) (nbits w : Nat) : State := s.pushStimulus (tableWord nbits w)

end Sys2Proof.Machine
end

