-- ==== Sys2Proof/Machine/Assembly.lean ====
section
/-! DEFINITION. Stimulus programs: the expansion of a line into stimuli and words (30_encoding.md R140, R141), how the
environment issues a line to the machine, and the text syntax of a line (R140; what R140 leaves open of it is log entry 18). -/

namespace Sys2Proof.Machine

/-- `MEMW` of consecutive indices from `a` (R141). -/
def memwRun : Nat → List Nat → List Instr
  | _, [] => []
  | a, d :: ds => .memw (BitVec.ofNat 16 a) (BitVec.ofNat 8 d) :: memwRun (a + 1) ds

/-- `WR` of consecutive registers from `r` (R141). -/
def wrRun : Nat → List Nat → List Instr
  | _, [] => []
  | r, d :: ds => wrInstr (BitVec.ofNat 4 r) (BitVec.ofNat 8 d) :: wrRun (r + 1) ds

/-- The stimuli of a line (R140, R141), with the standard and the interlace bit in force when it is expanded. -/
def expandLine (S : Standard) (interlace : Bool) : AsmLine → List Instr
  | .tick n => List.replicate n .tick
  | .rd r => [rdInstr (BitVec.ofNat 4 r)]
  | .wr r d => [wrInstr (BitVec.ofNat 4 r) (BitVec.ofNat 8 d)]
  | .memw a ds => memwRun a ds
  | .mode m => [.mode (BitVec.ofNat 8 m)]
  | .reset => [.reset]
  | .overrun => [.overrun]
  | .diag => [.diag]
  | .line => List.replicate (lineCycles S) .tick
  | .frame => List.replicate (lineCycles S * frameLines S interlace) .tick
  | .memfill a n d => memwRun a (List.replicate n d)
  | .wrall ds => wrRun 0 ds

/-- The words of a line (R140). -/
def lineWords (S : Standard) (interlace : Bool) (l : AsmLine) : List Word := (expandLine S interlace l).map encode

/-- The environment issues a line: its words join the pending stimuli. An ill-formed line has no words. -/
def State.issue (s : State) (l : AsmLine) : State :=
  if l.wellFormed then { s with stim := s.stim ++ lineWords s.standard s.interlace l } else s

/-! ## The text of a line (R140) -/

/-- The text before a comment. -/
def stripComment (cs : List Char) : List Char := cs.takeWhile (· ≠ ';')

/-- A blank character: a space or a tab (DESIGN CHOICE, log entry 18). -/
def isBlank (c : Char) : Bool := c == ' ' || c == '\t'

/-- The text without the blanks around it. -/
def trimBlanks (cs : List Char) : List Char := ((cs.dropWhile isBlank).reverse.dropWhile isBlank).reverse

/-- The value of a digit below `base`. -/
def digitValue (base : Nat) (c : Char) : Option Nat :=
  let v :=
    if '0' ≤ c ∧ c ≤ '9' then c.toNat - '0'.toNat
    else if 'A' ≤ c ∧ c ≤ 'F' then c.toNat - 'A'.toNat + 10
    else base
  if v < base then some v else none

/-- The digits of a number, most significant first, onto the value read so far. -/
def parseDigits (base : Nat) : Nat → List Char → Option Nat
  | acc, [] => some acc
  | acc, c :: cs =>
    match digitValue base c with
    | some v => parseDigits base (acc * base + v) cs
    | none => none

/-- A number in the given base with at least one digit. -/
def parseBase (base : Nat) (cs : List Char) : Option Nat := if cs.isEmpty then none else parseDigits base 0 cs

/-- A number: `$hh`, `0xhh` or decimal (R140). The text has been put in upper case, so that `0X` and either case of a digit are
taken too, and leading zeros are (DESIGN CHOICE, log entry 18). -/
def parseNumber : List Char → Option Nat
  | '$' :: cs => parseBase 16 cs
  | '0' :: 'X' :: cs => parseBase 16 cs
  | cs => parseBase 10 cs

/-- A register name `R0` to `R15` (R140); a larger number is left to the well-formedness check. Lower case (`r4`) and leading zeros
(`R007`) are taken too (DESIGN CHOICE, log entry 18). -/
def parseRegister : List Char → Option Nat
  | 'R' :: cs => parseBase 10 cs
  | _ => none

/-- A mode operand: a number or one of the four names (R140), in either case (DESIGN CHOICE, log entry 18). -/
def parseMode (cs : List Char) : Option Nat :=
  if cs = ['P', 'A', 'L'] then some 0
  else if cs = ['N', 'T', 'S', 'C'] then some 1
  else if cs = ['P', 'A', 'L', 'T', 'E', 'S', 'T'] then some 2
  else if cs = ['N', 'T', 'S', 'C', 'T', 'E', 'S', 'T'] then some 3
  else parseNumber cs

/-- The operands: the parts between commas, each trimmed; no text is no operand. -/
def splitCommas : List Char → List Char → List (List Char)
  | acc, [] => [trimBlanks acc.reverse]
  | acc, c :: cs => if c = ',' then trimBlanks acc.reverse :: splitCommas [] cs else splitCommas (c :: acc) cs

/-- The operand texts of a line. -/
def operandTexts (cs : List Char) : List (List Char) := if (trimBlanks cs).isEmpty then [] else splitCommas [] cs

/-- A line from its mnemonic and operand texts, in upper case (R140, R141). -/
def parseOperands (name : List Char) (ops : List (List Char)) : Option AsmLine :=
  if name = ['T', 'I', 'C', 'K'] then
    match ops with
    | [] => some (.tick 1)
    | [n] => (parseNumber n).map .tick
    | _ => none
  else if name = ['R', 'D'] then
    match ops with
    | [r] => (parseRegister r).map .rd
    | _ => none
  else if name = ['W', 'R'] then
    match ops with
    | [r, d] =>
      match parseRegister r, parseNumber d with
      | some r, some d => some (.wr r d)
      | _, _ => none
    | _ => none
  else if name = ['M', 'E', 'M', 'W'] then
    match ops with
    | a :: ds =>
      match parseNumber a, ds.mapM parseNumber with
      | some a, some ds => some (.memw a ds)
      | _, _ => none
    | [] => none
  else if name = ['M', 'O', 'D', 'E'] then
    match ops with
    | [m] => (parseMode m).map .mode
    | _ => none
  else if name = ['M', 'E', 'M', 'F', 'I', 'L', 'L'] then
    match ops.mapM parseNumber with
    | some [a, n, d] => some (.memfill a n d)
    | _ => none
  else if name = ['W', 'R', 'A', 'L', 'L'] then (ops.mapM parseNumber).map .wrall
  else if ops ≠ [] then none
  else if name = ['R', 'E', 'S', 'E', 'T'] then some .reset
  else if name = ['O', 'V', 'E', 'R', 'R', 'U', 'N'] then some .overrun
  else if name = ['D', 'I', 'A', 'G'] then some .diag
  else if name = ['L', 'I', 'N', 'E'] then some .line
  else if name = ['F', 'R', 'A', 'M', 'E'] then some .frame
  else none

/-- What a line of text is. -/
inductive ParsedLine where
  /-- Nothing but blanks and a comment. -/
  | empty
  | line (l : AsmLine)
  /-- Not a line of the syntax. -/
  | bad
deriving DecidableEq, Repr

/-- Read one line of a stimulus program (R140): mnemonics are case-insensitive and `;` starts a comment. R140 is silent on the case of
operands; the whole line is put in upper case, so operands are case-insensitive too (DESIGN CHOICE, log entry 18). -/
def parseLine (text : List Char) : ParsedLine :=
  let cs := trimBlanks ((stripComment text).map Char.toUpper)
  if cs.isEmpty then .empty
  else
    match parseOperands (cs.takeWhile fun c => !isBlank c) (operandTexts (cs.dropWhile fun c => !isBlank c)) with
    | some l => if l.wellFormed then .line l else .bad
    | none => .bad

end Sys2Proof.Machine
end

