-- ==== Sys2Proof/Machine/Environment.lean ====
section
/-! DEFINITION. What the rules say of the block's surroundings: the bus bridge that turns CPU accesses into stimuli
(47_host_ops.md R431), and the obligation towards the framebuffer's reader (70_reset_and_hazards.md R541). -/

namespace Sys2Proof.Machine

/-- The register at a host address, if it is one of the bank's sixteen (R431, R512). -/
def bridgeRegister (cfg : Config) (addr : MemIx) : Option (BitVec 4) :=
  if cfg.regBase.toNat ≤ addr.toNat ∧ addr.toNat < cfg.regBase.toNat + 16 then
    some (BitVec.ofNat 4 (addr.toNat - cfg.regBase.toNat))
  else none

/-- The stimulus of a CPU write: `WR Ri, d` inside the bank (R431), the memory write MEMW elsewhere (R430). -/
def bridgeWrite (cfg : Config) (addr : MemIx) (d : Byte) : Instr :=
  match bridgeRegister cfg addr with
  | some r => wrInstr r d
  | none => .memw addr d

/-- The stimulus of a CPU read inside the bank: `RD Ri` (R431). A read elsewhere does not concern the block. -/
def bridgeRead (cfg : Config) (addr : MemIx) : Option Instr := (bridgeRegister cfg addr).map rdInstr

/-! ## The framebuffer's reader (R106, R415, R541)

The reader is no part of the core. Whether it may read a line depends on which raster lines have passed since the frames last
started afresh, and State holds no past: the environment keeps it as `past`, the states at which TICKs ran, newest first. -/

/-- A stimulus that starts the frames afresh: RESET (R434), or a MODE that is accepted (R432). -/
def startsAfresh (cfg : Config) : Instr → Bool
  | .reset => true
  | .mode m => (modeOfCode m).any cfg.modeOk
  | _ => false

/-- The environment's record after the stimulus `i` at the state `s`. -/
def pastAfter (cfg : Config) (i : Instr) (s : State) (past : List State) : List State :=
  if i = .tick then s :: past else if startsAfresh cfg i then [] else past

/-- The writer's raster line is the one that framebuffer line `yr` holds, `vc = yr + FB_LINE_OFFSET[S]` (R413). -/
def State.onLine (cfg : Config) (s : State) (yr : Nat) : Bool := decide (s.vc.toNat = yr + cfg.fbLineOffset s.standard)

/-- How far the cycle `h` stands into the LINE_CYCLES[S] cycles that have one vc: they begin after HC_VC_INC[S] (R260). It orders the
cycles still to come; which have run, the past says. -/
def cycleOfRasterLine (cfg : Config) (S : Standard) (h : Nat) : Nat :=
  (h + lineCycles S - (cfg.hcVcInc S + 1)) % lineCycles S

/-- The cycles in which a visible line is written (R257, R410). R541 says nothing of a framebuffer line whose raster line is not of the
visible class and so is never written; the model takes the same cycles for it, whatever its class (DESIGN CHOICE, log entry 21). -/
def windowCycles (cfg : Config) (S : Standard) : List Nat :=
  (List.range (lineCycles S)).filter fun h => decide (cfg.hvisStart S ≤ h) && decide (h < cfg.hvisEnd S)

/-- The writer has begun the raster line it is on: among the latest TICKs, those that ran at its vc, one ran in the window. -/
def State.lineBegun (cfg : Config) (past : List State) (s : State) : Bool :=
  (past.takeWhile fun p => decide (p.vc = s.vc)).any fun p => (windowCycles cfg s.standard).contains p.hc.toNat

/-- The writer has no more to write to the raster line it is on: no window cycle of it is still to come before vc increments. -/
def State.lineEnded (cfg : Config) (s : State) : Bool :=
  (windowCycles cfg s.standard).all fun h =>
    decide (cycleOfRasterLine cfg s.standard h < cycleOfRasterLine cfg s.standard s.hc.toNat)

/-- The writer has finished line `yr` (R541): since the frames last started afresh the raster has been on the line, and a TICK has run
in every window cycle of it. Raster line 0 is cut short by a start afresh, which begins it at hc 0 and not after HC_VC_INC: the
model does not count it as finished until its missing window cycles have run in the next frame (DESIGN CHOICE, log entry 21: R541
does not say). A line stays finished from any pass since the start afresh, NTSC raster line 261 too after INTERLACE is cleared, when the
frame has no such line (DESIGN CHOICE, log entry 21: R541 does not say). -/
def State.finishedLine (cfg : Config) (past : List State) (s : State) (yr : Nat) : Bool :=
  past.any (fun p => p.onLine cfg yr) &&
    (windowCycles cfg s.standard).all fun h => past.any fun p => p.onLine cfg yr && decide (p.hc.toNat = h)

/-- The writer is in the middle of line `yr`: it has begun it, for the next frame if it had finished it, and has more to write to it
(R541). -/
def State.insideLine (cfg : Config) (past : List State) (s : State) (yr : Nat) : Bool :=
  s.onLine cfg yr && s.lineBegun cfg past && !s.lineEnded cfg

/-- The framebuffer line the writer is on, `yw = vc - FB_LINE_OFFSET[S]` (R541). -/
def State.writerLine (cfg : Config) (s : State) : Int := (s.vc.toNat : Int) - cfg.fbLineOffset s.standard

/-- The writer leads line `yr` by `(yw - yr) mod FRAME_LINES >= MIN_LEAD_LINES` (R541). -/
def State.leadKept (cfg : Config) (s : State) (yr : Nat) : Bool :=
  decide ((cfg.minLeadLines : Int) ≤ (s.writerLine cfg - yr) % s.frameLength)

/-- The environment's obligation at an instant at which the reader reads line `yr` (R541, R415): the writer has finished the
line for the current frame, has not begun it for the next, and leads by MIN_LEAD_LINES. -/
def State.lineReadable (cfg : Config) (past : List State) (s : State) (yr : Nat) : Bool :=
  s.finishedLine cfg past yr && !s.insideLine cfg past yr && s.leadKept cfg yr

/-- What the reader sees of `FB[y][x]`: the cell as the latest TICK left it, there being one buffer (R106, R415). Nothing
(`none`) is said where the obligation is broken, which makes the result undefined (R541), or where there is no such cell. -/
def State.dviRead (cfg : Config) (past : List State) (s : State) (y x : Nat) : Option Byte :=
  if s.lineReadable cfg past y then s.fbCell cfg y x else none

end Sys2Proof.Machine
end

