-- ==== Sys2Proof/Safety.lean ====
section
/-! DEFINITION. The legal states of the core: the ranges the rules give its counters, the canonical form of its two
memories, and the shape of its outputs. Claims about unreachable states use this as their premise. -/

namespace Sys2Proof.Machine

/-- The lines of the longest frame of a standard (R255): an interlace bit cleared late leaves vc at 261 (R260). -/
def maxFrameLines : Standard → Nat
  | .pal => 312
  | .ntsc => 262

/-- A legal state of the core in the configuration `cfg`. -/
structure State.Legal (cfg : Config) (s : State) : Prop where
  /-- R25. -/
  hc_lt : s.hc.toNat < lineCycles s.standard
  /-- R26. -/
  vc_lt : s.vc.toNat < maxFrameLines s.standard
  /-- R433. -/
  mode_ok : cfg.modeOk s.mode = true
  /-- R261: in PAL the field stays 0. -/
  pal_field : s.standard = .pal → s.field = false
  /-- R411: 4 pixels for each cycle of the window already passed, at most. -/
  fbcol_le : s.fbcol.toNat ≤ 4 * (min s.hc.toNat (cfg.hvisEnd s.standard) - cfg.hvisStart s.standard)
  /-- R411. -/
  fbcol_four : s.fbcol.toNat % 4 = 0
  /-- R38. -/
  ap_lt : s.ap < cfg.audioPrescMod
  /-- R43. -/
  level_le : s.audioLevel.toNat ≤ 2 * cfg.audioBias
  /-- R44, R357: every word has the width of the standard that emitted it. -/
  out_width : ∀ w ∈ s.out, w.width = cfg.cmdWidth .pal ∨ w.width = cfg.cmdWidth .ntsc
  /-- R47: the memory array is in canonical form. -/
  mem_wf : s.mem.wf cfg.memInit = true
  /-- R47: every listed index is below 65536. -/
  mem_inside : s.mem.within (fun a => decide (a < arraySize)) = true
  /-- R45: the framebuffer is in canonical form. -/
  fb_wf : s.fb.wf fbInit = true
  /-- R45, R410: every listed cell lies in the buffer of the standard. -/
  fb_inside : s.fb.within (fbKeyInside cfg s.standard) = true

/-- `n` TICKs in a row with no host stimulus between them (R141 `TICK n`). -/
def ticks (cfg : Config) : Nat → State → State
  | 0, s => s
  | n + 1, s => ticks cfg n (tick cfg s)

/-- A run of the machine is safe when no step stops it: there is no fault at all (R505), and a refusal only for a word
that decodes to no stimulus (R502). -/
def State.safeRun (s : State) (k : Nat) : Prop := ∃ t, Host.Core.run Sys2Proof.core k s = .next t

end Sys2Proof.Machine
end

