-- ==== Sys2Proof/Certificates/Slice0/Obligations.lean ====
section
/-! DEFINITION. The statements for the provers: each says of the model what a rule of the spec says of the block. A rule
whose text ends in a mark of its own (a decision D<n>, a derivation, general knowledge) is named in the docstring together with
that mark; such a statement has basis "derived". -/

open Sys2Proof Sys2Proof.Machine

/-! ## The stimulus word and the step -/

/-- The words of 95_test_vectors.md V9, written out bit by bit as R120 and R121 lay them out (decisions D2, D42). -/
def Obligations.DecodesTheWordsOfTheSpec : Prop :=
  decode 0x00000000 = .instr .tick ∧
  decode 0x00000001 = .refused .reservedBitsNonzero ∧
  decode 0x1F000000 = .instr .rdR15 ∧
  decode 0x1F000001 = .refused .reservedBitsNonzero ∧
  decode 0x2F00001B = .instr (.wrR15 0x1B) ∧
  decode 0x2F00011B = .refused .reservedBitsNonzero ∧
  decode 0x30123456 = .instr (.memw 0x1234 0x56) ∧
  decode 0x31000000 = .refused .reservedBitsNonzero ∧
  decode 0x40000003 = .instr (.mode 3) ∧
  decode 0x40000004 = .instr (.mode 4) ∧
  decode 0x41000000 = .refused .reservedBitsNonzero ∧
  decode 0x50000000 = .instr .reset ∧
  decode 0x60000000 = .instr .overrun ∧
  decode 0x70000000 = .instr .diag ∧
  decode 0x70000100 = .refused .reservedBitsNonzero ∧
  decode 0x80000000 = .refused .reservedOp ∧
  decode 0xF1234567 = .refused .reservedOp

/-- Decoding the word of a well-formed stimulus gives the stimulus, with every operand (R121, R123; decision D2). -/
def Obligations.DecodingAnEncodedStimulusGivesItBack : Prop :=
  ∀ i : Instr, i.wellFormed = true → decode (encode i) = .instr i

/-- A word that decodes is the word of the stimulus it decodes to: no other word has that meaning (R121, R124; decisions D2, D42). -/
def Obligations.EncodingADecodedWordGivesItBack : Prop :=
  ∀ (w : Word) (i : Instr), decode w = .instr i → encode i = w

/-- A word decodes to a row of the opcode table exactly when its bits under the row's mask are the row's match
(R122; decision D2). `rowMatch` names the row. -/
def Obligations.WordDecodesToTheRowItMatches : Prop :=
  ∀ (w : Word) (i : Instr),
    (∃ j, decode w = .instr j ∧ rowMatch j = rowMatch i) ↔ w &&& rowMask i = rowMatch i

/-- The decoder is total and refuses by name: RESERVED_OP exactly for `op` 8 to 15, RESERVED_BITS_NONZERO exactly for a
smaller `op` with a nonzero field that R121's table marks 0 (R121, R124, R126, R508; decision D42). -/
def Obligations.DecoderRefusesExactlyTheReservedWords : Prop :=
  ∀ (w : Word) (op r : Nat) (a : Nat) (d : Nat),
    w.toNat = op * 2 ^ 28 + r * 2 ^ 24 + a * 2 ^ 8 + d → r < 16 → a < 65536 → d < 256 →
    (decode w = .refused .reservedOp ↔ 8 ≤ op) ∧
    (decode w = .refused .reservedBitsNonzero ↔
      (op = 0 ∨ op = 5 ∨ op = 6 ∨ op = 7) ∧ (r ≠ 0 ∨ a ≠ 0 ∨ d ≠ 0) ∨
      op = 1 ∧ (a ≠ 0 ∨ d ≠ 0) ∨ op = 2 ∧ a ≠ 0 ∨ op = 3 ∧ r ≠ 0 ∨ op = 4 ∧ (r ≠ 0 ∨ a ≠ 0))

/-- A step runs the stimulus that the oldest pending word decodes to, on the state without that word (R13, R100). -/
def Obligations.StepRunsTheDecodedStimulus : Prop :=
  ∀ (s : State) (w : Word) (rest : List Word) (i : Instr),
    s.stim = w :: rest → decode w = .instr i → step s = exec i { s with stim := rest }

/-- A word that decodes to no stimulus is refused by name: it takes no step (R126, R502; decision D42). -/
def Obligations.StepRefusesAWordOfNoStimulus : Prop :=
  ∀ (s : State) (w : Word) (rest : List Word), s.stim = w :: rest →
    (decode w = .refused .reservedOp → step s = .refused (.reservedOp w)) ∧
    (decode w = .refused .reservedBitsNonzero → step s = .refused (.reservedBitsNonzero w))

/-- With no stimulus pending the machine waits and every field survives. The model's choice (log entry 2), after R515's
"Every field of the state survives any interval between ticks" and R252. -/
def Obligations.StepWaitsWithoutAStimulus : Prop :=
  ∀ s : State, s.stim = [] → step s = .next s

/-! ## The register bank -/

/-- RD R0 to RD R15 answer the byte of their register and change nothing else (R240, R200 to R215; decision D4). `reply` is
the model's own field for what a stimulus returns (log entry 3). -/
def Obligations.ReadAnswersTheByteOfTheRegister : Prop :=
  ∀ s : State,
  exec .rdR0 s = .next { s with reply := .byte s.regs[0] } ∧
  exec .rdR1 s = .next { s with reply := .byte s.regs[1] } ∧
  exec .rdR2 s = .next { s with reply := .byte s.regs[2] } ∧
  exec .rdR3 s = .next { s with reply := .byte s.regs[3] } ∧
  exec .rdR4 s = .next { s with reply := .byte s.regs[4] } ∧
  exec .rdR5 s = .next { s with reply := .byte s.regs[5] } ∧
  exec .rdR6 s = .next { s with reply := .byte s.regs[6] } ∧
  exec .rdR7 s = .next { s with reply := .byte s.regs[7] } ∧
  exec .rdR8 s = .next { s with reply := .byte s.regs[8] } ∧
  exec .rdR9 s = .next { s with reply := .byte s.regs[9] } ∧
  exec .rdR10 s = .next { s with reply := .byte s.regs[10] } ∧
  exec .rdR11 s = .next { s with reply := .byte s.regs[11] } ∧
  exec .rdR12 s = .next { s with reply := .byte s.regs[12] } ∧
  exec .rdR13 s = .next { s with reply := .byte s.regs[13] } ∧
  exec .rdR14 s = .next { s with reply := .byte s.regs[14] } ∧
  exec .rdR15 s = .next { s with reply := .byte s.regs[15] }

/-- WR R0 to WR R15 store all 8 bits of their register and change nothing else (R241, R220 to R235; decision D4). -/
def Obligations.WriteStoresTheByteInTheRegister : Prop :=
  ∀ (s : State) (d : Byte),
  exec (.wrR0 d) s = .next { s with regs := s.regs.set 0 d, reply := .ok } ∧
  exec (.wrR1 d) s = .next { s with regs := s.regs.set 1 d, reply := .ok } ∧
  exec (.wrR2 d) s = .next { s with regs := s.regs.set 2 d, reply := .ok } ∧
  exec (.wrR3 d) s = .next { s with regs := s.regs.set 3 d, reply := .ok } ∧
  exec (.wrR4 d) s = .next { s with regs := s.regs.set 4 d, reply := .ok } ∧
  exec (.wrR5 d) s = .next { s with regs := s.regs.set 5 d, reply := .ok } ∧
  exec (.wrR6 d) s = .next { s with regs := s.regs.set 6 d, reply := .ok } ∧
  exec (.wrR7 d) s = .next { s with regs := s.regs.set 7 d, reply := .ok } ∧
  exec (.wrR8 d) s = .next { s with regs := s.regs.set 8 d, reply := .ok } ∧
  exec (.wrR9 d) s = .next { s with regs := s.regs.set 9 d, reply := .ok } ∧
  exec (.wrR10 d) s = .next { s with regs := s.regs.set 10 d, reply := .ok } ∧
  exec (.wrR11 d) s = .next { s with regs := s.regs.set 11 d, reply := .ok } ∧
  exec (.wrR12 d) s = .next { s with regs := s.regs.set 12 d, reply := .ok } ∧
  exec (.wrR13 d) s = .next { s with regs := s.regs.set 13 d, reply := .ok } ∧
  exec (.wrR14 d) s = .next { s with regs := s.regs.set 14 d, reply := .ok } ∧
  exec (.wrR15 d) s = .next { s with regs := s.regs.set 15 d, reply := .ok }

/-- A read after a write of the same register, with no TICK between, answers the written byte, and a read of another
register what it answered before (R539, R241; derived from R100). -/
def Obligations.ReadAfterWriteAnswersTheWrittenByte : Prop :=
  ∀ (s : State) (n m : BitVec 4) (d : Byte),
    ∃ t u, exec (wrInstr n d) s = .next t ∧ exec (rdInstr m) t = .next u ∧
      u.reply = if m = n then .byte d else .byte (s.reg ⟨m.toNat, m.isLt⟩)

/-- RD R6 to RD R9 and WR R6 to WR R9: their words, the byte read and the byte stored, the stored byte read back, 0 read after
RESET, and that no core rule reads or writes the light-pen and pot registers: a TICK does the same whatever they hold (R226 to
R229) and leaves them alone (R206 to R209).
`reply` is the model's field for what a stimulus returns (log entry 3). -/
def Obligations.LightPenAndPotRegistersAreTheHostsAlone : Prop :=
  ∀ (s : State) (d : Byte),
  (encode (.wrR6 d) = (0x26000000 : Word) ||| d.setWidth 32 ∧ encode .rdR6 = (0x16000000 : Word) ∧
   exec (.wrR6 d) s = .next { s with regs := s.regs.set 6 d, reply := .ok } ∧
   exec .rdR6 s = .next { s with reply := .byte s.regs[6] } ∧
   exec .rdR6 { s with regs := s.regs.set 6 d, reply := .ok } =
     .next { s with regs := s.regs.set 6 d, reply := .byte d } ∧
   exec .rdR6 State.reset = .next { State.reset with reply := .byte 0 } ∧
   ∃ t, exec .tick s = .next t ∧
     exec .tick { s with regs := s.regs.set 6 d } = .next { t with regs := t.regs.set 6 d } ∧ t.regs[6] = s.regs[6]) ∧
  (encode (.wrR7 d) = (0x27000000 : Word) ||| d.setWidth 32 ∧ encode .rdR7 = (0x17000000 : Word) ∧
   exec (.wrR7 d) s = .next { s with regs := s.regs.set 7 d, reply := .ok } ∧
   exec .rdR7 s = .next { s with reply := .byte s.regs[7] } ∧
   exec .rdR7 { s with regs := s.regs.set 7 d, reply := .ok } =
     .next { s with regs := s.regs.set 7 d, reply := .byte d } ∧
   exec .rdR7 State.reset = .next { State.reset with reply := .byte 0 } ∧
   ∃ t, exec .tick s = .next t ∧
     exec .tick { s with regs := s.regs.set 7 d } = .next { t with regs := t.regs.set 7 d } ∧ t.regs[7] = s.regs[7]) ∧
  (encode (.wrR8 d) = (0x28000000 : Word) ||| d.setWidth 32 ∧ encode .rdR8 = (0x18000000 : Word) ∧
   exec (.wrR8 d) s = .next { s with regs := s.regs.set 8 d, reply := .ok } ∧
   exec .rdR8 s = .next { s with reply := .byte s.regs[8] } ∧
   exec .rdR8 { s with regs := s.regs.set 8 d, reply := .ok } =
     .next { s with regs := s.regs.set 8 d, reply := .byte d } ∧
   exec .rdR8 State.reset = .next { State.reset with reply := .byte 0 } ∧
   ∃ t, exec .tick s = .next t ∧
     exec .tick { s with regs := s.regs.set 8 d } = .next { t with regs := t.regs.set 8 d } ∧ t.regs[8] = s.regs[8]) ∧
  (encode (.wrR9 d) = (0x29000000 : Word) ||| d.setWidth 32 ∧ encode .rdR9 = (0x19000000 : Word) ∧
   exec (.wrR9 d) s = .next { s with regs := s.regs.set 9 d, reply := .ok } ∧
   exec .rdR9 s = .next { s with reply := .byte s.regs[9] } ∧
   exec .rdR9 { s with regs := s.regs.set 9 d, reply := .ok } =
     .next { s with regs := s.regs.set 9 d, reply := .byte d } ∧
   exec .rdR9 State.reset = .next { State.reset with reply := .byte 0 } ∧
   ∃ t, exec .tick s = .next t ∧
     exec .tick { s with regs := s.regs.set 9 d } = .next { t with regs := t.regs.set 9 d } ∧ t.regs[9] = s.regs[9])

/-! ## Host operations -/

/-- MEMW stores its byte at its index and leaves every other index, the register bank and everything else alone (R430;
decision D5). The memory is in its canonical form, which every step keeps.
The canonical form is the model's representation (log entry 8). -/
def Obligations.MemoryWriteStoresOneByte : Prop :=
  ∀ (s : State) (a : MemIx) (d : Byte), s.mem.wf hw.memInit = true →
    ∃ t, exec (.memw a d) s = .next t ∧ t.memByte hw a = d ∧ (∀ b, b ≠ a → t.memByte hw b = s.memByte hw b) ∧
      t.mem.wf hw.memInit = true ∧ t = { s with mem := t.mem, reply := .ok }

/-- An accepted MODE sets the mode, restarts the sequencing at the top of a frame, clears the framebuffer exactly when
the standard changes, and leaves everything else alone (R432; decision D35). -/
def Obligations.AcceptedModeRestartsTheSequencing : Prop :=
  ∀ (s : State) (v : VideoMode), hw.modeOk v = true →
    exec (.mode ((modeCode v).setWidth 8)) s = .next { s with
      mode := v, hc := 0, vc := 0, fstate := .outsideMatrix, fbcol := 0, lineParity := false, field := false
      fb := if modeStandard v = modeStandard s.mode then s.fb else []
      reply := .ok }

/-- A MODE whose code is out of range or fails the revision check returns ConfigError with the rejected code and changes
nothing; the machine goes on. No other stimulus returns it (R501).
The error stands in `reply`, the model's field for what a stimulus returns (log entry 3). -/
def Obligations.RejectedModeReturnsConfigErrorAndChangesNothing : Prop :=
  (∀ (s : State) (m : Byte), 3 < m.toNat → exec (.mode m) s = .next { s with reply := .configError m }) ∧
  (∀ (cfg : Config) (s : State) (v : VideoMode), cfg.modeOk v = false →
    selectMode cfg ((modeCode v).setWidth 8) s = { s with reply := .configError ((modeCode v).setWidth 8) }) ∧
  (∀ (s : State) (m : Byte), exec (.mode m) s = .next (selectMode hw m s)) ∧
  (∀ (i : Instr) (s t : State) (m : Byte), exec i s = .next t → t.reply = .configError m → i = .mode m)

/-- RESET gives every field of the core its reset value and does not touch MEM, and power-on is the same as RESET (R64, R434,
R530, R531; decision D37). Three fields are the model's choice: the pending stimuli are the environment's (log entry 2), so
`stim` is kept by RESET and empty at power-on; `reply`, what a stimulus returned, is `ok` after RESET and `none` at power-on (log
entries 3 and 16); and `mem := []` says that every index reads as MEM_INIT (log entries 8 and 16). -/
def Obligations.ResetGivesEveryFieldItsResetValue : Prop :=
  (∀ s : State, exec .reset s = .next { State.reset with mem := s.mem, stim := s.stim, reply := .ok }) ∧
  State.reset =
    { regs := #v[0, 0, 0, 0, 0, 0, 0, 0, 0, 0, 0, 0, 0, 0, 0, 0], mode := .pal, hc := 0, vc := 0, lineParity := false,
      field := false, fstate := .outsideMatrix, hcc := 0, vcc := 0, cdc := 0, vmc := 0, vmcl := 0, code := 0, colr := 0,
      pipe := #v[0, 0, 0, 0, 0, 0, 0, 0], fbcol := 0, ap := 0, ctr := #v[0, 0, 0, 0], sr := #v[0, 0, 0, 0],
      lfsr := 0xFFFF, due := #v[false, false, false, false], audioLevel := 0, out := [], fb := [], overrun := 0,
      mem := [], stim := [], reply := .none }

/-- OVERRUN adds one to the counter modulo 2^32 and changes nothing else (R436, R437; decision D38). -/
def Obligations.OverrunAddsOneToTheCounter : Prop :=
  ∀ s : State, exec .overrun s = .next { s with overrun := s.overrun + 1, reply := .ok }

/-- DIAG returns the overrun counter, the mode and the four due flags and changes no state (R438; decision D39). -/
def Obligations.DiagnosticsReturnTheRecord : Prop :=
  ∀ s : State, exec .diag s = .next { s with reply := .diag ⟨s.overrun, s.mode, s.due⟩ }

/-- In any stimulus sequence `overrun` equals the number of OVERRUN stimuli since the last RESET, modulo 2^32 (R437, the
source's property 6; decision D38): no other stimulus touches it. The sequence is any run of the pending words, with or without
more behind it; the pending words are the model's queue (log entry 2). -/
def Obligations.OverrunCountsTheOverrunsSinceReset : Prop :=
  ∀ (ws rest : List Word) (s t : State), s.stim = ws ++ rest → Host.Core.run Sys2Proof.core ws.length s = .next t →
    t.overrun = ws.foldl (fun n w => if w = encode .reset then 0 else if w = encode .overrun then n + 1 else n) s.overrun ∧
    t.stim = rest

/-- Every stimulus completes, with outcome OK or, for a MODE only, CONFIG_ERROR: there is no fault (R500, R505, R506;
decision D40). -/
def Obligations.EveryStimulusCompletes : Prop :=
  ∀ (i : Instr) (s : State), ∃ t, exec i s = .next t ∧
    (outcomeCode t.reply = some 0 ∨ outcomeCode t.reply = some 1 ∧ ∃ m, i = .mode m)

/-- RD, WR, MEMW, OVERRUN and DIAG leave the mode, the sequencing position and all of the core's machinery alone; MODE, whether it
is accepted or rejected, leaves the cell counters, the latches, the pipeline, audio, OUT, the overrun counter, the bank and MEM
alone (R22, R62, R432; decisions D6, D35). -/
def Obligations.HostAccessesLeaveTheCoreAlone : Prop :=
  (∀ (i : Instr) (s t : State), exec i s = .next t → i ≠ .tick → i ≠ .reset → (∀ m, i ≠ .mode m) →
    t.mode = s.mode ∧ t.hc = s.hc ∧ t.vc = s.vc ∧ t.lineParity = s.lineParity ∧ t.field = s.field ∧
    t.fstate = s.fstate ∧ t.hcc = s.hcc ∧ t.vcc = s.vcc ∧ t.cdc = s.cdc ∧ t.vmc = s.vmc ∧ t.vmcl = s.vmcl ∧
    t.code = s.code ∧ t.colr = s.colr ∧ t.pipe = s.pipe ∧ t.fbcol = s.fbcol ∧ t.ap = s.ap ∧ t.ctr = s.ctr ∧
    t.sr = s.sr ∧ t.lfsr = s.lfsr ∧ t.due = s.due ∧ t.audioLevel = s.audioLevel ∧ t.out = s.out ∧ t.fb = s.fb) ∧
  (∀ (m : Byte) (s : State), ∃ t, exec (.mode m) s = .next t ∧
    t.hcc = s.hcc ∧ t.vcc = s.vcc ∧ t.cdc = s.cdc ∧ t.vmc = s.vmc ∧ t.vmcl = s.vmcl ∧ t.code = s.code ∧ t.colr = s.colr ∧
    t.pipe = s.pipe ∧ t.ap = s.ap ∧ t.ctr = s.ctr ∧ t.sr = s.sr ∧ t.lfsr = s.lfsr ∧ t.due = s.due ∧
    t.audioLevel = s.audioLevel ∧ t.out = s.out ∧ t.overrun = s.overrun ∧ t.regs = s.regs ∧ t.mem = s.mem)

/-! ## TICK: counters, raster, lines -/

/-- What a TICK leaves alone: the mode, the overrun counter, every byte of memory, the pending stimuli, and every register
but the raster fields R3[7] and R4 (R62, R81, R432, R436; decisions D4, D6). -/
def Obligations.TickFrame : Prop :=
  ∀ s : State, ∃ t, exec .tick s = .next t ∧ t.reply = .ok ∧ t.mode = s.mode ∧ t.overrun = s.overrun ∧ t.mem = s.mem ∧
    (∀ a, t.memByte hw a = s.memByte hw a) ∧ t.stim = s.stim ∧ (∀ n : RegIx, n ≠ 3 → n ≠ 4 → t.reg n = s.reg n) ∧
    (t.reg 3).extractLsb' 0 7 = (s.reg 3).extractLsb' 0 7

/-- hc counts 0 to `LINE_CYCLES[S] - 1` and wraps to 0, by exactly one per TICK; no other stimulus but MODE and RESET writes
it (R259). -/
def Obligations.HorizontalCounterCountsTheCyclesOfTheLine : Prop :=
  (∀ s : State, ∃ t, exec .tick s = .next t ∧
    t.hc = if s.hc.toNat + 1 = (match s.standard with | .pal => 71 | .ntsc => 65) then 0 else s.hc + 1) ∧
  (∀ (i : Instr) (s t : State), exec i s = .next t → i ≠ .tick → i ≠ .reset → (∀ m, i ≠ .mode m) → t.hc = s.hc)

/-- vc advances by one at `hc0 = HC_VC_INC[S]` and only there, and returns to 0 after the last line of the frame: 312 lines in
PAL, 261 in NTSC, 262 with interlace on (R255, R260; decision D20). -/
def Obligations.VerticalCounterAdvancesOncePerLine : Prop :=
  ∀ s : State, ∃ t, exec .tick s = .next t ∧
    t.vc = if s.hc.toNat = hw.hcVcInc s.standard then
        if (match s.standard with | .pal => 312 | .ntsc => if (s.reg 0).getLsbD 7 then 262 else 261) ≤ s.vc.toNat + 1
        then 0 else s.vc + 1
      else s.vc

/-- At `hc0 = HC_RASTER[S]` the readback takes the cycle's own line, vc[8:1] in R4 and vc[0] in R3[7]; every other bit of the
bank, and the whole bank at every other cycle, is unchanged (R258; decision D22, general knowledge). -/
def Obligations.RasterReadbackTakesTheLineOfTheCycle : Prop :=
  ∀ s : State, ∃ t, exec .tick s = .next t ∧
    (s.hc.toNat = hw.hcRaster s.standard →
      t.rasterReadback = s.vc ∧ t.reg 4 = s.vc.extractLsb' 1 8 ∧ (t.reg 3).getLsbD 7 = s.vc.getLsbD 0 ∧
      (t.reg 3).extractLsb' 0 7 = (s.reg 3).extractLsb' 0 7 ∧ ∀ n : RegIx, n ≠ 3 → n ≠ 4 → t.reg n = s.reg n) ∧
    (s.hc.toNat ≠ hw.hcRaster s.standard → t.regs = s.regs)

/-- The new line toggles the line parity and clears fbcol, and nothing else writes the parity; the frame start toggles the
field in interlaced NTSC, and nothing else writes it (R261, R262; decisions D11, D12, D20, D23). -/
def Obligations.ParityAndFieldToggle : Prop :=
  ∀ s : State, ∃ t, exec .tick s = .next t ∧
    t.lineParity = (s.lineParity ^^ decide (s.hc.toNat + 1 = lineCycles s.standard)) ∧
    t.field = (s.field ^^ decide (s.hc.toNat = hw.hcVcInc s.standard ∧ s.frameLength ≤ s.vc.toNat + 1 ∧
      s.standard = .ntsc ∧ (s.reg 0).getLsbD 7 = true)) ∧
    t.fbcol = if s.hc.toNat + 1 = lineCycles s.standard then 0
      else if visible hw s.standard s.hc s.vc then s.fbcol + 4 else s.fbcol

/-- The line classes: in PAL lines 0 to 284 are visible, 285 to 292 vertical sync, 293 to 311 vertical blanking; in NTSC the OPEN
thresholds VIS_END and VSYNC_END part the lines in the same way (R256; decision D21). In both standards a cycle is visible inside the
window of a visible line (R257; decision D19). -/
def Obligations.LineClassesAndVisibleCycles : Prop :=
  ∀ (cfg : Config) (S : Standard) (vc : BitVec 9) (hc : BitVec 7) (visEnd vsyncEnd : Nat),
    visEnd = (match S with | .pal => 285 | .ntsc => cfg.visEndNtsc) →
    vsyncEnd = (match S with | .pal => 293 | .ntsc => cfg.vsyncEndNtsc) →
    (vc.toNat < visEnd → lineClass cfg S vc = .visible) ∧
    (visEnd ≤ vc.toNat → vc.toNat < vsyncEnd → lineClass cfg S vc = .vsync) ∧
    (visEnd ≤ vc.toNat → vsyncEnd ≤ vc.toNat → lineClass cfg S vc = .vblank) ∧
    (visible cfg S hc vc = true ↔ vc.toNat < visEnd ∧ cfg.hvisStart S ≤ hc.toNat ∧ hc.toNat < cfg.hvisEnd S)

/-! ## TICK: the fetch machine -/

/-- The whole transition table of R302 (decision D8): the fetch pass's transition, then the frame start, then the new line's row
accounting, on every state; and the rows whose side effect is "none" (R291, R293, R296): OUTSIDE_MATRIX without a Y match,
IN_MATRIX_Y, IN_MATRIX_X and MATRIX_DLY_3 leave the latches alone, load nothing into the pipeline and, before the line's last cycle,
leave every cell counter alone. The last cycle's counters are those of RowAccountingAdvancesTheCell. -/
def Obligations.FetchStateFollowsTheTransitionTable : Prop :=
  ∀ s : State, ∃ t, exec .tick s = .next t ∧
    ((s.fstate = .outsideMatrix ∧ s.vc.toNat / 2 ≠ (s.reg 1).toNat) ∨ s.fstate = .inMatrixY ∨ s.fstate = .inMatrixX ∨
        s.fstate = .matrixDly3 →
      t.code = s.code ∧ t.colr = s.colr ∧ t.pipe = (pixelRefill s).pipe ∧
      (s.hc.toNat + 1 ≠ lineCycles s.standard →
        t.hcc = s.hcc ∧ t.vcc = s.vcc ∧ t.cdc = s.cdc ∧ t.vmc = s.vmc ∧ t.vmcl = s.vmcl)) ∧
    t.fstate =
      (let fetched : FetchState :=
        match s.fstate with
        | .outsideMatrix => if (s.vc >>> 1).toNat = (s.reg 1).toNat then .inMatrixY else .outsideMatrix
        | .inMatrixY => if s.hc = (s.reg 0).extractLsb' 0 7 then .matrixDly1 else .inMatrixY
        | .inMatrixX => if s.hc = (s.reg 0).extractLsb' 0 7 then .matrixDly1 else .inMatrixX
        | .matrixDly1 => .matrixDly2
        | .matrixDly2 => .matrixDly3
        | .matrixDly3 => if s.hcc = 0 then .matrixLine else .screenCode
        | .screenCode => .charData
        | .charData => if s.hcc - 1 = 0 then .matrixLine else .screenCode
        | .matrixLine => .matrixLine
       if s.hc.toNat = hw.hcVcInc s.standard ∧ s.frameLength ≤ s.vc.toNat + 1 then .outsideMatrix
       else if s.hc.toNat + 1 = lineCycles s.standard then
         match fetched with
         | .outsideMatrix => .outsideMatrix
         | .inMatrixY => .inMatrixY
         | .inMatrixX => .inMatrixX
         | _ => if (if (s.reg 3).getLsbD 0 then 16 else 8) ≤ s.cdc.toNat + 1 ∧ s.vcc - 1 = 0 then .outsideMatrix
                else .inMatrixX
       else fetched)

/-- The Y match opens the matrix, at every cycle of a line: VCC takes ROWS and CDC, VMC, VMCL are cleared (R291, R292; decision D9).
HCC is not touched but by the new line's reload of COLUMNS (R262), and a frame start in the cycle gives OUTSIDE_MATRIX (R261). -/
def Obligations.YMatchOpensTheMatrix : Prop :=
  ∀ s : State, s.fstate = .outsideMatrix → s.vc.toNat / 2 = (s.reg 1).toNat →
    ∃ t, exec .tick s = .next t ∧
      t.fstate = (if s.hc.toNat = hw.hcVcInc s.standard ∧ s.frameLength ≤ s.vc.toNat + 1 then .outsideMatrix else .inMatrixY) ∧
      t.vcc = (s.reg 3).extractLsb' 1 6 ∧ t.cdc = 0 ∧ t.vmc = 0 ∧ t.vmcl = 0 ∧
      t.hcc = (if s.hc.toNat + 1 = lineCycles s.standard then (s.reg 2).extractLsb' 0 7 else s.hcc) ∧
      t.code = s.code ∧ t.colr = s.colr ∧ t.pipe = (pixelRefill s).pipe

/-- MATRIX_DLY_1 goes to MATRIX_DLY_2 and MATRIX_DLY_2 to MATRIX_DLY_3, one per TICK, with no other effect: the fetch pass changes
nothing else, and the counters and latches after the TICK are those before it (R295). Where the cycle also starts a frame or a line,
R261 and R263 write the state that is left. -/
def Obligations.DelayStatesAdvanceOnePerTick : Prop :=
  (∀ (cfg : Config) (hc0 : BitVec 7) (vc0 : BitVec 9) (s : State),
    (s.fstate = .matrixDly1 → fetchPass cfg hc0 vc0 s = { s with fstate := .matrixDly2 }) ∧
    (s.fstate = .matrixDly2 → fetchPass cfg hc0 vc0 s = { s with fstate := .matrixDly3 })) ∧
  (∀ s : State, s.fstate = .matrixDly1 ∨ s.fstate = .matrixDly2 → s.hc.toNat + 1 ≠ lineCycles s.standard →
    ∃ t, exec .tick s = .next t ∧ t.hc = s.hc + 1 ∧
      t.fstate = (if s.hc.toNat = hw.hcVcInc s.standard ∧ s.frameLength ≤ s.vc.toNat + 1 then .outsideMatrix
        else if s.fstate = .matrixDly1 then .matrixDly2 else .matrixDly3) ∧
      t.hcc = s.hcc ∧ t.vcc = s.vcc ∧ t.cdc = s.cdc ∧ t.vmc = s.vmc ∧ t.vmcl = s.vmcl ∧ t.code = s.code ∧ t.colr = s.colr ∧
      t.pipe = (pixelRefill s).pipe)

/-- MATRIX_LINE: nothing is fetched and nothing changes until the new line, whose row accounting moves to IN_MATRIX_X or, on the
last row, to OUTSIDE_MATRIX; meanwhile the pipeline fills with the border colour (R301). A frame start in the cycle gives
OUTSIDE_MATRIX (R261). -/
def Obligations.MatrixLineRestsUntilTheNewLine : Prop :=
  ∀ s : State, s.fstate = .matrixLine →
    (∀ (cfg : Config) (hc0 : BitVec 7) (vc0 : BitVec 9), fetchPass cfg hc0 vc0 s = s) ∧
    ∃ t, exec .tick s = .next t ∧ t.code = s.code ∧ t.colr = s.colr ∧
      t.pipe = #v[s.pipe[4], s.pipe[5], s.pipe[6], s.pipe[7], ((s.reg 15).extractLsb' 0 3).setWidth 4,
        ((s.reg 15).extractLsb' 0 3).setWidth 4, ((s.reg 15).extractLsb' 0 3).setWidth 4,
        ((s.reg 15).extractLsb' 0 3).setWidth 4] ∧
      (s.hc.toNat + 1 ≠ lineCycles s.standard →
        t.fstate = (if s.hc.toNat = hw.hcVcInc s.standard ∧ s.frameLength ≤ s.vc.toNat + 1 then .outsideMatrix
          else .matrixLine) ∧
        t.hcc = s.hcc ∧ t.vcc = s.vcc ∧ t.cdc = s.cdc ∧ t.vmc = s.vmc ∧ t.vmcl = s.vmcl) ∧
      (s.hc.toNat + 1 = lineCycles s.standard →
        t.fstate = if s.hc.toNat = hw.hcVcInc s.standard ∧ s.frameLength ≤ s.vc.toNat + 1 then .outsideMatrix
          else if s.cellHeight ≤ s.cdc.toNat + 1 ∧ s.vcc - 1 = 0 then .outsideMatrix else .inMatrixX)

/-- The cell counters after the last cycle of a line, from every state (the Y match is YMatchOpensTheMatrix's). HCC is reloaded. Where X
has matched on the line, be it in this very cycle, and no frame starts, a further line of the row advances CDC and restores VMC from
VMCL, and the row's last line clears CDC, latches VMC and decrements VCC; otherwise the row accounting does nothing (R261 to R263;
decision D11). The VMC it sees is the one CHAR_DATA has just advanced (R300). -/
def Obligations.RowAccountingAdvancesTheCell : Prop :=
  ∀ (s : State) (matched : Prop) (m : BitVec 10), s.hc.toNat + 1 = lineCycles s.standard →
    ¬ (s.fstate = .outsideMatrix ∧ s.vc.toNat / 2 = (s.reg 1).toNat) →
    (matched ↔
      (s.fstate = .matrixLine ∨ s.fstate = .matrixDly1 ∨ s.fstate = .matrixDly2 ∨ s.fstate = .matrixDly3 ∨
        s.fstate = .screenCode ∨ s.fstate = .charData ∨
        (s.fstate = .inMatrixY ∨ s.fstate = .inMatrixX) ∧ s.hc = (s.reg 0).extractLsb' 0 7) ∧
      ¬ (s.hc.toNat = hw.hcVcInc s.standard ∧ s.frameLength ≤ s.vc.toNat + 1)) →
    m = (if s.fstate = .charData then s.vmc + 1 else s.vmc) →
    ∃ t, exec .tick s = .next t ∧ t.hcc = (s.reg 2).extractLsb' 0 7 ∧
      (matched → (if (s.reg 3).getLsbD 0 then 16 else 8) ≤ s.cdc.toNat + 1 →
        t.cdc = 0 ∧ t.vmcl = m ∧ t.vmc = m ∧ t.vcc = s.vcc - 1) ∧
      (matched → s.cdc.toNat + 1 < (if (s.reg 3).getLsbD 0 then 16 else 8) →
        t.cdc = s.cdc + 1 ∧ t.vmcl = s.vmcl ∧ t.vmc = s.vmcl ∧ t.vcc = s.vcc) ∧
      (¬ matched → t.cdc = s.cdc ∧ t.vmcl = s.vmcl ∧ t.vmc = m ∧ t.vcc = s.vcc)

/-- SCREEN_CODE reads the screen code at `{SCREEN_BASE, SCREEN_VA9, 0} + VMC` and the colour nibble at
`COLOUR_RAM_BASE + va[9:0]`; an unconnected index reads the sentinel (R94, R95, R297, R298; decisions D8, D14, D15, general
knowledge). It loads nothing into the pipeline and, before the line's last cycle, leaves every cell counter alone, VMC too. The
last cycle's counters are those of RowAccountingAdvancesTheCell. -/
def Obligations.ScreenCodeFetchLatchesCodeAndColour : Prop :=
  ∀ s : State, s.fstate = .screenCode → ∀ va : ChipAddr,
    va.toNat = (((s.reg 5).toNat / 16) * 1024 + (if (s.reg 2).getLsbD 7 then 512 else 0) + s.vmc.toNat) % 16384 →
    ∀ i c : MemIx, i.toNat = (if va.getLsbD 13 then 0 else 32768) + va.toNat % 8192 → c.toNat = 0x9400 + va.toNat % 1024 →
    ∃ t, exec .tick s = .next t ∧
      t.code = (if hw.openBus i then hw.openBusValue else s.memByte hw i) ∧
      t.colr = (if hw.openBus c then hw.openBusValue.extractLsb' 0 4 else (s.memByte hw c).extractLsb' 0 4) ∧
      t.pipe = (pixelRefill s).pipe ∧
      (s.hc.toNat + 1 ≠ lineCycles s.standard →
        t.hcc = s.hcc ∧ t.vcc = s.vcc ∧ t.cdc = s.cdc ∧ t.vmc = s.vmc ∧ t.vmcl = s.vmcl)

/-- CHAR_DATA reads the bitmap byte at `CHAR_BASE * 1024 + code * H + CDC` and loads its decoded pixels into the pipeline, at every cycle
of a line; before the line's last cycle it advances VMC, takes one cell off HCC and leaves VCC, CDC and VMCL alone (R299, R300, R338;
decisions D8, D14). The last cycle's counters are those of RowAccountingAdvancesTheCell. -/
def Obligations.CharDataFetchLoadsThePipeline : Prop :=
  ∀ s : State, s.fstate = .charData → ∀ va : ChipAddr,
    va.toNat = (((s.reg 5).toNat % 16) * 1024 + s.code.toNat * (if (s.reg 3).getLsbD 0 then 16 else 8) + s.cdc.toNat) % 16384 →
    ∀ i : MemIx, i.toNat = (if va.getLsbD 13 then 0 else 32768) + va.toNat % 8192 →
    ∃ t, exec .tick s = .next t ∧
      t.pipe = decodeChar s (if hw.openBus i then hw.openBusValue else s.memByte hw i) s.colr ∧
      t.code = s.code ∧ t.colr = s.colr ∧
      (s.hc.toNat + 1 ≠ lineCycles s.standard →
        t.vmc = s.vmc + 1 ∧ t.hcc = s.hcc - 1 ∧ t.vcc = s.vcc ∧ t.cdc = s.cdc ∧ t.vmcl = s.vmcl)

/-- The core reads MEM only in SCREEN_CODE, one byte for the code and one nibble for the colour, and in CHAR_DATA, one bitmap byte;
it never writes MEM. So a TICK does the same on any other memory that agrees on those cells (R81). -/
def Obligations.TickReadsOnlyTheFetchedCells : Prop :=
  ∀ (s : State) (m : Memory),
    (s.fstate = .screenCode →
      m.read hw.memInit (hw.vicToArray (screenAddr s)).toNat = s.mem.read hw.memInit (hw.vicToArray (screenAddr s)).toNat ∧
      (m.read hw.memInit (colourIndex hw (screenAddr s)).toNat).extractLsb' 0 4 =
        (s.mem.read hw.memInit (colourIndex hw (screenAddr s)).toNat).extractLsb' 0 4) →
    (s.fstate = .charData →
      m.read hw.memInit (hw.vicToArray (charAddr s)).toNat = s.mem.read hw.memInit (hw.vicToArray (charAddr s)).toNat) →
    ∃ t, exec .tick s = .next t ∧ t.mem = s.mem ∧ exec .tick { s with mem := m } = .next { t with mem := m }

/-- A read of an unconnected index returns the sentinel, for colour its low nibble, raises nothing and changes nothing; so a TICK that
fetches from such an index completes with the sentinel latched or decoded (R504). -/
def Obligations.OpenBusReadsReturnTheSentinel : Prop :=
  ∀ (cfg : Config) (s : State) (va : ChipAddr),
    (cfg.openBus (cfg.vicToArray va) = true → vicRead cfg s va = cfg.openBusValue ∧
      (s.fstate = .screenCode → screenAddr s = va → (tick cfg s).code = cfg.openBusValue) ∧
      (s.fstate = .charData → charAddr s = va → (tick cfg s).pipe = decodeChar s cfg.openBusValue s.colr)) ∧
    (cfg.openBus (colourIndex cfg va) = true → colourRead cfg s va = cfg.openBusValue.extractLsb' 0 4 ∧
      (s.fstate = .screenCode → screenAddr s = va → (tick cfg s).colr = cfg.openBusValue.extractLsb' 0 4)) ∧
    (tick cfg s).mem = s.mem

/-- The sequence of fetch states depends only on the mode, the bank and the position and cell counters of the fetch machine:
memory, the latches, the pipeline, audio and the outputs have no influence, over any number of TICKs (R266, R290, R302;
decision D8). -/
def Obligations.FetchSequenceDependsOnPositionAndRegistersOnly : Prop :=
  ∀ (cfg : Config) (n : Nat) (s t : State), s.mode = t.mode → s.regs = t.regs → s.hc = t.hc → s.vc = t.vc →
    s.fstate = t.fstate → s.hcc = t.hcc → s.vcc = t.vcc → s.cdc = t.cdc →
    (ticks cfg n s).fstate = (ticks cfg n t).fstate ∧ (ticks cfg n s).hc = (ticks cfg n t).hc ∧
      (ticks cfg n s).vc = (ticks cfg n t).vc

/-- The frame repeats, at every HC_VC_INC: a frame after a frame start the position and the fetch state are those of the frame start
again (and HCC is COLUMNS, where vc increments at the end of the line); and from the first new line after the frame start on, or from
the frame start itself if HCC comes back, the position, the fetch state and HCC are at all times those of a frame earlier (R266, the
source's property 1; derived from R250 and R261). -/
def Obligations.FetchSequenceRepeatsEveryFrame : Prop :=
  ∀ (cfg : Config) (s : State) (period : Nat), cfg.hcVcInc s.standard < lineCycles s.standard →
    s.hc.toNat = (cfg.hcVcInc s.standard + 1) % lineCycles s.standard → s.vc = 0 → s.fstate = .outsideMatrix →
    period = lineCycles s.standard * s.frameLength →
    ((ticks cfg period s).hc = s.hc ∧ (ticks cfg period s).vc = s.vc ∧ (ticks cfg period s).fstate = s.fstate ∧
      (cfg.hcVcInc s.standard + 1 = lineCycles s.standard → (ticks cfg period s).hcc = s.columns)) ∧
    ∀ n, (lineCycles s.standard ≤ s.hc.toNat + n ∨ (ticks cfg period s).hcc = s.hcc) →
      (ticks cfg (n + period) s).hc = (ticks cfg n s).hc ∧ (ticks cfg (n + period) s).vc = (ticks cfg n s).vc ∧
      (ticks cfg (n + period) s).fstate = (ticks cfg n s).fstate ∧ (ticks cfg (n + period) s).hcc = (ticks cfg n s).hcc

/-- A line takes `LINE_CYCLES[S]` TICKs: from its first cycle, n TICKs later hc is n, until it is 0 again with vc advanced by one
or wrapped to 0 (R259, R260, R265; decision D20). -/
def Obligations.LineTakesItsCycles : Prop :=
  ∀ (cfg : Config) (s : State), cfg.WellFormed → s.hc = 0 →
    (∀ n, n < lineCycles s.standard → (ticks cfg n s).hc.toNat = n) ∧
    (ticks cfg (lineCycles s.standard) s).hc = 0 ∧
    (ticks cfg (lineCycles s.standard) s).vc = if s.frameLength ≤ s.vc.toNat + 1 then 0 else s.vc + 1

/-- A frame takes 71 * 312, 65 * 261 or 65 * 262 TICKs for every value of HC_VC_INC: the machine, given that many TICK words at the
top of a frame, completes them all and is at the top of a frame again, having been at the start of line n after n lines
(R265; derived from R255, R259 and R260). The queue of pending words is the model's (log entry 2). -/
def Obligations.FrameTakesItsTicks : Prop :=
  ∀ (s : State) (n : Nat), s.hc = 0 → s.vc = 0 →
    n ≤ (match s.standard with | .pal => 312 | .ntsc => if (s.reg 0).getLsbD 7 then 262 else 261) →
    s.stim = List.replicate ((match s.standard with | .pal => 71 | .ntsc => 65) * n) 0x00000000 →
    ∃ t, Host.Core.run Sys2Proof.core ((match s.standard with | .pal => 71 | .ntsc => 65) * n) s = .next t ∧ t.hc = 0 ∧
      t.vc.toNat = n % (match s.standard with | .pal => 312 | .ntsc => if (s.reg 0).getLsbD 7 then 262 else 261)

/-- Cell timing: from the X match at cycle X of a line with HCC cells left, the delay states run at X + 1 to X + 3, the first screen
code is fetched at X + 4 and its character at X + 5, so that its first four pixels are the batch of X + 6 (R304; derived
from R290, R295, R298 and R300). No frame starts in these cycles. -/
def Obligations.FirstCharacterFollowsTheXMatchBySixCycles : Prop :=
  ∀ (cfg : Config) (s : State), s.fstate = .inMatrixX ∨ s.fstate = .inMatrixY → s.hc = s.originX → s.hcc ≠ 0 →
    s.hc.toNat + 6 < lineCycles s.standard → s.vc.toNat + 1 < s.frameLength →
    (ticks cfg 1 s).fstate = .matrixDly1 ∧ (ticks cfg 2 s).fstate = .matrixDly2 ∧ (ticks cfg 3 s).fstate = .matrixDly3 ∧
    (ticks cfg 4 s).fstate = .screenCode ∧ (ticks cfg 5 s).fstate = .charData ∧
    (ticks cfg 6 s).pipe = decodeChar (ticks cfg 5 s) (vicRead cfg (ticks cfg 5 s) (charAddr (ticks cfg 5 s))) (ticks cfg 5 s).colr ∧
    (ticks cfg 6 s).hcc = s.hcc - 1

/-! ## TICK: the pipeline and the decode -/

/-- Hi-res decode: bit 7 - j of the byte, inverted in reverse mode, selects the foreground `colr[2:0]` or the background for pixel j
(R333, R334; decision D16, general knowledge). -/
def Obligations.HiResDecodeMapsBitsToTwoColours : Prop :=
  ∀ (s : State) (b : Byte) (colr : BitVec 4), colr.getLsbD 3 = false → ∀ j : Fin 8,
    (decodeChar s b colr)[j] =
      if b.getLsbD (7 - j.val) = (s.reg 15).getLsbD 3 then (colr.extractLsb' 0 3).setWidth 4 else (s.reg 15).extractLsb' 4 4

/-- Multicolour decode: each pair of bits, most significant first, selects background, border, foreground or auxiliary for two
pixels; the reverse bit plays no part (R333, R335; decision D16, general knowledge). -/
def Obligations.MulticolourDecodeMapsPairsToFourColours : Prop :=
  ∀ (s : State) (b : Byte) (colr : BitVec 4), colr.getLsbD 3 = true → ∀ j : Fin 8,
    (decodeChar s b colr)[j] =
      match (b.extractLsb' (6 - 2 * (j.val / 2)) 2).toNat with
      | 0 => (s.reg 15).extractLsb' 4 4
      | 1 => ((s.reg 15).extractLsb' 0 3).setWidth 4
      | 2 => (colr.extractLsb' 0 3).setWidth 4
      | _ => (s.reg 14).extractLsb' 4 4

/-- Every TICK shifts four entries out of the pipeline and fills four with the border colour, unless it loads a character (R330,
R331; decision D17). -/
def Obligations.PipelineShiftsAndFillsWithTheBorder : Prop :=
  ∀ s : State, s.fstate ≠ .charData → ∃ t, exec .tick s = .next t ∧
    (∀ k : Fin 4, t.pipe[k.val] = s.pipe[k.val + 4]) ∧
    (∀ k : Fin 4, t.pipe[k.val + 4] = ((s.reg 15).extractLsb' 0 3).setWidth 4)

/-- A border fill made in a TICK is the batch two TICKs later, if neither it nor the next loads a character (R331, R545;
decision D17). -/
def Obligations.BorderFillIsTheBatchTwoTicksLater : Prop :=
  ∀ (cfg : Config) (s : State), s.fstate ≠ .charData → (tick cfg s).fstate ≠ .charData →
    pixelBatch (ticks cfg 2 s) = #v[s.borderColour, s.borderColour, s.borderColour, s.borderColour]

/-- In a test mode the batch that is shown is the test pattern, and everything but OUT and FB runs as in the real mode of the same
standard (R267, R339; decision D36). -/
def Obligations.TestPatternChangesOnlyTheOutputs : Prop :=
  ∀ (cfg : Config) (s : State) (v : VideoMode), modeStandard v = s.standard →
    tick cfg { s with mode := v } =
      { tick cfg s with mode := v, out := (tick cfg { s with mode := v }).out, fb := (tick cfg { s with mode := v }).fb } ∧
    (modeTest v = true → ∀ k : Fin 4,
      (shownBatch cfg { s with mode := v } s.hc s.vc (pixelBatch s))[k] = cfg.testPattern s.standard s.vc s.hc k)

/-! ## TICK: the outputs -/

/-- A TICK appends to OUT the sync words of its line class, parity, field and cycle, and on a visible cycle the four pixel words of
the batch, the last one of the window truncated (R350, R351, R353 to R356; decisions D24, D26, D27). -/
def Obligations.EncoderAppendsSyncWordsThenPixelWords : Prop :=
  ∀ (s : State), ∃ t, exec .tick s = .next t ∧
    ∃ px : Vector Colour 4, px = shownBatch hw s s.hc s.vc (pixelBatch s) ∧
    (s.standard = .pal → t.out = s.out ++
      (hw.syncCmds .pal (lineClass hw .pal s.vc) s.lineParity s.field s.hc).map (fun b => ⟨hw.cmdWidth .pal, b⟩) ++
      if visible hw .pal s.hc s.vc then
        [⟨hw.cmdWidth .pal, hw.palPix s.lineParity px[0]⟩, ⟨hw.cmdWidth .pal, hw.palPix s.lineParity px[1]⟩,
         ⟨hw.cmdWidth .pal, hw.palPix s.lineParity px[2]⟩,
         ⟨hw.cmdWidth .pal, if s.hc.toNat + 1 = hw.hvisEnd .pal then hw.palPixTrunc s.lineParity px[3]
           else hw.palPix s.lineParity px[3]⟩]
      else []) ∧
    (s.standard = .ntsc → t.out = s.out ++
      (hw.syncCmds .ntsc (lineClass hw .ntsc s.vc) s.lineParity s.field s.hc).map (fun b => ⟨hw.cmdWidth .ntsc, b⟩) ++
      if visible hw .ntsc s.hc s.vc then
        [⟨hw.cmdWidth .ntsc, hw.ntscPix (hw.ntscRow s.lineParity s.hc 0) px[0]⟩,
         ⟨hw.cmdWidth .ntsc, hw.ntscPix (hw.ntscRow s.lineParity s.hc 1) px[1]⟩,
         ⟨hw.cmdWidth .ntsc, hw.ntscPix (hw.ntscRow s.lineParity s.hc 2) px[2]⟩,
         ⟨hw.cmdWidth .ntsc, if s.hc.toNat + 1 = hw.hvisEnd .ntsc then hw.ntscPixTrunc (hw.ntscRow s.lineParity s.hc 3) px[3]
           else hw.ntscPix (hw.ntscRow s.lineParity s.hc 3) px[3]⟩]
      else [])

/-- The words a TICK emits depend on the standard, the position, the parity, the field and the batch alone (R359; derived from
R350). -/
def Obligations.EmittedWordsDependOnPositionPhaseAndBatchAlone : Prop :=
  ∀ (cfg : Config) (s t : State), s.standard = t.standard → s.hc = t.hc → s.vc = t.vc → s.lineParity = t.lineParity →
    s.field = t.field → shownBatch cfg s s.hc s.vc (pixelBatch s) = shownBatch cfg t t.hc t.vc (pixelBatch t) →
    ∃ ws, (tick cfg s).out = s.out ++ ws ∧ (tick cfg t).out = t.out ++ ws ∧
      ws.length = (cfg.syncCmds s.standard (lineClass cfg s.standard s.vc) s.lineParity s.field s.hc).length +
        (if visible cfg s.standard s.hc s.vc then 4 else 0)

/-- A visible TICK writes the batch's four colours at line `vc0 - FB_LINE_OFFSET[S]`, columns fbcol to fbcol + 3, where those exist;
every other cell, and every cell at an invisible cycle, is unchanged (R410, R411; decision D34), and there are cells at the lines below
FB_HEIGHT and the columns below FB_WIDTH only (R45, R413). A cell's byte has red in bits 7:5, green in 4:2 and blue in 1:0 (R137, R412).
That the columns of a pixel are not wrapped at 9 bits, which a legal state never needs, rests on log entry 10; the canonical form is the
model's representation (log entry 9). -/
def Obligations.FramebufferTakesTheBatchAtItsCoordinates : Prop :=
  (∀ s : State, s.fb.wf fbInit = true → ∃ t, exec .tick s = .next t ∧
    ∀ y x : Nat,
      t.fbCell hw y x =
        if visible hw s.standard s.hc s.vc = true ∧ s.vc.toNat = y + hw.fbLineOffset s.standard ∧
            y < hw.fbHeight s.standard ∧ x < hw.fbWidth s.standard ∧ s.fbcol.toNat ≤ x ∧ x < s.fbcol.toNat + 4 then
          some (hw.fbColour ((shownBatch hw s s.hc s.vc (pixelBatch s)).toList.getD (x - s.fbcol.toNat) 0))
        else s.fbCell hw y x) ∧
  (∀ (s : State) (y x : Nat), (s.fbCell hw y x).isSome = true ↔ y < hw.fbHeight s.standard ∧ x < hw.fbWidth s.standard) ∧
  (∀ p : Byte, (pixelRed p).toNat = p.toNat / 32 ∧ (pixelGreen p).toNat = p.toNat / 4 % 8 ∧ (pixelBlue p).toNat = p.toNat % 4 ∧
    rgb332 (pixelRed p) (pixelGreen p) (pixelBlue p) = p)

/-- Every (level, delay, count) within the field ranges of a layout comes back from the command word built of it (R135, over any layout
that R134 admits, and so over the machine's own). -/
def Obligations.CommandFieldsRoundTrip : Prop :=
  (∀ (w : Nat) (l : CmdLayout w) (level delay count : Nat), l.WellFormed →
    level < 2 ^ l.lvlW → delay < 2 ^ l.dlyW → count < 2 ^ l.cntW →
    (cmdLevel l (cmdBuild l level delay count), cmdDelay l (cmdBuild l level delay count),
      cmdCount l (cmdBuild l level delay count)) = (level, delay, count)) ∧
  (∀ S, (hw.cmdLayout S).WellFormed)

/-! ## TICK: audio -/

/-- Each channel is clocked when the prescaler meets its divisor and phase; clocked at the terminal count it reloads with
`0x7F - FREQ` plus the offset and is due, else it counts down by one modulo 128; unclocked it keeps its count (R380, R381, R383
to R385; decisions D28, D29). -/
def Obligations.AudioCountersCountDownAndReload : Prop :=
  ∀ s : State, ∃ t, exec .tick s = .next t ∧ t.ap = (s.ap + 1) % hw.audioPrescMod ∧
    ∀ i : Channel,
      (s.ap % hw.audioDiv[i] ≠ hw.audioPhase[i] → t.ctr[i] = s.ctr[i] ∧ t.due[i] = false) ∧
      (s.ap % hw.audioDiv[i] = hw.audioPhase[i] → s.ctr[i] ≠ hw.audioTerminal →
        t.ctr[i] = s.ctr[i] - 1 ∧ t.due[i] = false) ∧
      (s.ap % hw.audioDiv[i] = hw.audioPhase[i] → s.ctr[i] = hw.audioTerminal →
        t.ctr[i] = 0x7F - (s.reg (channelReg i)).extractLsb' 0 7 + hw.audioReloadOffset ∧ t.due[i] = true)

/-- A tone channel's waveform register shifts left with the inverse of its top bit, gated by the enable, in exactly the TICKs in which
the channel is due (R386; decision D30). -/
def Obligations.ToneWaveformStepsWhenDue : Prop :=
  ∀ (s : State) (i : Channel), i.val < 3 → ∃ t, exec .tick s = .next t ∧
    t.sr[i].toNat = if t.due[i] = true then
        s.sr[i].toNat * 2 % 256 + (if s.sr[i].toNat < 128 ∧ (s.reg (channelReg i)).getLsbD 7 = true then 1 else 0)
      else s.sr[i].toNat

/-- The noise step: the feedback bit is the XOR of taps 15, 14, 12 and 3, forced to 1 when disabled; it is shifted into the LFSR, and
the waveform register shifts only when it is 1 (R388, R389; decision D31). -/
def Obligations.NoiseStepsWhenDue : Prop :=
  ∀ (s : State) (fb : Bool),
    fb = (if (s.reg 13).getLsbD 7 then s.lfsr.getLsbD 15 ^^ s.lfsr.getLsbD 14 ^^ s.lfsr.getLsbD 12 ^^ s.lfsr.getLsbD 3
      else true) →
    ∃ t, exec .tick s = .next t ∧
      t.lfsr.toNat = (if t.due[3] = true then s.lfsr.toNat * 2 % 65536 + fb.toNat else s.lfsr.toNat) ∧
      t.sr[3].toNat = if t.due[3] = true ∧ fb = true then
          s.sr[3].toNat * 2 % 256 + (if s.sr[3].toNat < 128 ∧ (s.reg 13).getLsbD 7 = true then 1 else 0)
        else s.sr[3].toNat

/-- The level is the sum of the four tri-level outputs after the TICK's steps, times the volume, plus the bias, exactly (R392 to
R395; decisions D32, D33).
That the exact level fits the 8 bits rests on the model's bound of the bias (log entry 4). -/
def Obligations.AudioLevelIsTheMixOfTheChannels : Prop :=
  ∀ s : State, ∃ t, exec .tick s = .next t ∧
    ∃ o : Channel → Int,
      (∀ i, o i = if (s.reg (channelReg i)).getLsbD 7 = false then 0 else if (t.sr[i]).getLsbD 0 = true then 1 else -1) ∧
      (t.audioLevel.toNat : Int) = (o 0 + o 1 + o 2 + o 3) * ((s.reg 14).toNat % 16 : Nat) + hw.audioBias

/-- An enabled tone register is a twisted ring: eight steps invert it and sixteen restore it; disabled, eight steps empty it (R386,
R387; decision D30). -/
def Obligations.ToneRegisterIsATwistedRing : Prop :=
  ∀ r : Byte,
    (fun x => waveShift x true)^[8] r = ~~~ r ∧ (fun x => waveShift x true)^[16] r = r ∧
    (fun x => waveShift x false)^[8] r = 0

/-- The enabled LFSR rule never reaches 0 from another value and no two values have the same successor; disabled, sixteen steps fill it
with ones (R390, R391; derived from R388). -/
def Obligations.NoiseRegisterNeverEmptiesAndFillsWhenDisabled : Prop :=
  (∀ l : BitVec 16, l ≠ 0 → lfsrShift l true ≠ 0) ∧
  (∀ l m : BitVec 16, lfsrShift l true = lfsrShift m true → l = m) ∧
  (∀ l : BitVec 16, (fun x => lfsrShift x false)^[16] l = 0xFFFF)

/-! ## Legal states -/

/-- Every step keeps the legal states legal: the counters in range, the mode accepted, the field 0 in PAL, the level in range, the
outputs in shape and both memories in canonical form (R25, R26, R38, R43, R47, R261, R411, R433).
That the level stays below twice the bias rests on the model's bound of the bias, and the canonical forms are the model's
representation (log entries 4, 8 and 9). -/
def Obligations.LegalStatesStayLegal : Prop :=
  ∀ s t : State, s.Legal hw → step s = .next t → t.Legal hw

/-- The state after reset is legal (R531). -/
def Obligations.ResetStateIsLegal : Prop := State.reset.Legal hw

/-! ## The environment -/

/-- The word of a line of a stimulus program whose operands are in range (R140; decision D47). -/
def Obligations.AssemblyLinesHaveTheirWords : Prop :=
  ∀ (S : Standard) (il : Bool) (r d a m : Nat), r ≤ 15 → d ≤ 255 → a ≤ 65535 → m ≤ 255 →
    lineWords S il (.tick 1) = [0x00000000] ∧
    lineWords S il (.rd r) = [BitVec.ofNat 32 (0x10000000 + r * 2 ^ 24)] ∧
    lineWords S il (.wr r d) = [BitVec.ofNat 32 (0x20000000 + r * 2 ^ 24 + d)] ∧
    lineWords S il (.memw a [d]) = [BitVec.ofNat 32 (0x30000000 + a * 2 ^ 8 + d)] ∧
    lineWords S il (.mode m) = [BitVec.ofNat 32 (0x40000000 + m)] ∧
    lineWords S il .reset = [0x50000000] ∧
    lineWords S il .overrun = [0x60000000] ∧
    lineWords S il .diag = [0x70000000]

/-- The bus bridge turns a CPU write to `REG_BASE + i` into WR Ri and a CPU read into RD Ri (R431; decision D5). That MEM
keeps its byte there, R431 leaving it to the bridge, rests on log entry 19. -/
def Obligations.BusBridgeReachesTheBank : Prop :=
  ∀ (i : BitVec 4) (d : Byte),
    bridgeWrite hw (0x9000 + i.setWidth 16) d = wrInstr i d ∧ bridgeRead hw (0x9000 + i.setWidth 16) = some (rdInstr i) ∧
    (∀ s : State, ∃ t, exec (bridgeWrite hw (0x9000 + i.setWidth 16) d) s = .next t ∧ t.reg ⟨i.toNat, i.isLt⟩ = d ∧
      t.mem = s.mem)
end

