-- ==== Sys2Proof/Laws/State.lean ====
section
/-! SUPPORT. One lemma per field of the state for each named update, true by rfl, so that no later proof unfolds a record update. -/

namespace Sys2Proof.Machine

/-! ## setReg -/

@[simp] theorem State.setReg_regs (s : State) (i : RegIx) (v : Byte) : (s.setReg i v).regs = s.regs.set i.val v i.isLt := rfl
@[simp] theorem State.setReg_mode (s : State) (i : RegIx) (v : Byte) : (s.setReg i v).mode = s.mode := rfl
@[simp] theorem State.setReg_hc (s : State) (i : RegIx) (v : Byte) : (s.setReg i v).hc = s.hc := rfl
@[simp] theorem State.setReg_vc (s : State) (i : RegIx) (v : Byte) : (s.setReg i v).vc = s.vc := rfl
@[simp] theorem State.setReg_lineParity (s : State) (i : RegIx) (v : Byte) : (s.setReg i v).lineParity = s.lineParity := rfl
@[simp] theorem State.setReg_field (s : State) (i : RegIx) (v : Byte) : (s.setReg i v).field = s.field := rfl
@[simp] theorem State.setReg_fstate (s : State) (i : RegIx) (v : Byte) : (s.setReg i v).fstate = s.fstate := rfl
@[simp] theorem State.setReg_hcc (s : State) (i : RegIx) (v : Byte) : (s.setReg i v).hcc = s.hcc := rfl
@[simp] theorem State.setReg_vcc (s : State) (i : RegIx) (v : Byte) : (s.setReg i v).vcc = s.vcc := rfl
@[simp] theorem State.setReg_cdc (s : State) (i : RegIx) (v : Byte) : (s.setReg i v).cdc = s.cdc := rfl
@[simp] theorem State.setReg_vmc (s : State) (i : RegIx) (v : Byte) : (s.setReg i v).vmc = s.vmc := rfl
@[simp] theorem State.setReg_vmcl (s : State) (i : RegIx) (v : Byte) : (s.setReg i v).vmcl = s.vmcl := rfl
@[simp] theorem State.setReg_code (s : State) (i : RegIx) (v : Byte) : (s.setReg i v).code = s.code := rfl
@[simp] theorem State.setReg_colr (s : State) (i : RegIx) (v : Byte) : (s.setReg i v).colr = s.colr := rfl
@[simp] theorem State.setReg_pipe (s : State) (i : RegIx) (v : Byte) : (s.setReg i v).pipe = s.pipe := rfl
@[simp] theorem State.setReg_fbcol (s : State) (i : RegIx) (v : Byte) : (s.setReg i v).fbcol = s.fbcol := rfl
@[simp] theorem State.setReg_ap (s : State) (i : RegIx) (v : Byte) : (s.setReg i v).ap = s.ap := rfl
@[simp] theorem State.setReg_ctr (s : State) (i : RegIx) (v : Byte) : (s.setReg i v).ctr = s.ctr := rfl
@[simp] theorem State.setReg_sr (s : State) (i : RegIx) (v : Byte) : (s.setReg i v).sr = s.sr := rfl
@[simp] theorem State.setReg_lfsr (s : State) (i : RegIx) (v : Byte) : (s.setReg i v).lfsr = s.lfsr := rfl
@[simp] theorem State.setReg_due (s : State) (i : RegIx) (v : Byte) : (s.setReg i v).due = s.due := rfl
@[simp] theorem State.setReg_audioLevel (s : State) (i : RegIx) (v : Byte) : (s.setReg i v).audioLevel = s.audioLevel := rfl
@[simp] theorem State.setReg_out (s : State) (i : RegIx) (v : Byte) : (s.setReg i v).out = s.out := rfl
@[simp] theorem State.setReg_fb (s : State) (i : RegIx) (v : Byte) : (s.setReg i v).fb = s.fb := rfl
@[simp] theorem State.setReg_overrun (s : State) (i : RegIx) (v : Byte) : (s.setReg i v).overrun = s.overrun := rfl
@[simp] theorem State.setReg_mem (s : State) (i : RegIx) (v : Byte) : (s.setReg i v).mem = s.mem := rfl
@[simp] theorem State.setReg_stim (s : State) (i : RegIx) (v : Byte) : (s.setReg i v).stim = s.stim := rfl
@[simp] theorem State.setReg_reply (s : State) (i : RegIx) (v : Byte) : (s.setReg i v).reply = s.reply := rfl

/-! ## answer -/

@[simp] theorem State.answer_regs (s : State) (r : Reply) : (s.answer r).regs = s.regs := rfl
@[simp] theorem State.answer_mode (s : State) (r : Reply) : (s.answer r).mode = s.mode := rfl
@[simp] theorem State.answer_hc (s : State) (r : Reply) : (s.answer r).hc = s.hc := rfl
@[simp] theorem State.answer_vc (s : State) (r : Reply) : (s.answer r).vc = s.vc := rfl
@[simp] theorem State.answer_lineParity (s : State) (r : Reply) : (s.answer r).lineParity = s.lineParity := rfl
@[simp] theorem State.answer_field (s : State) (r : Reply) : (s.answer r).field = s.field := rfl
@[simp] theorem State.answer_fstate (s : State) (r : Reply) : (s.answer r).fstate = s.fstate := rfl
@[simp] theorem State.answer_hcc (s : State) (r : Reply) : (s.answer r).hcc = s.hcc := rfl
@[simp] theorem State.answer_vcc (s : State) (r : Reply) : (s.answer r).vcc = s.vcc := rfl
@[simp] theorem State.answer_cdc (s : State) (r : Reply) : (s.answer r).cdc = s.cdc := rfl
@[simp] theorem State.answer_vmc (s : State) (r : Reply) : (s.answer r).vmc = s.vmc := rfl
@[simp] theorem State.answer_vmcl (s : State) (r : Reply) : (s.answer r).vmcl = s.vmcl := rfl
@[simp] theorem State.answer_code (s : State) (r : Reply) : (s.answer r).code = s.code := rfl
@[simp] theorem State.answer_colr (s : State) (r : Reply) : (s.answer r).colr = s.colr := rfl
@[simp] theorem State.answer_pipe (s : State) (r : Reply) : (s.answer r).pipe = s.pipe := rfl
@[simp] theorem State.answer_fbcol (s : State) (r : Reply) : (s.answer r).fbcol = s.fbcol := rfl
@[simp] theorem State.answer_ap (s : State) (r : Reply) : (s.answer r).ap = s.ap := rfl
@[simp] theorem State.answer_ctr (s : State) (r : Reply) : (s.answer r).ctr = s.ctr := rfl
@[simp] theorem State.answer_sr (s : State) (r : Reply) : (s.answer r).sr = s.sr := rfl
@[simp] theorem State.answer_lfsr (s : State) (r : Reply) : (s.answer r).lfsr = s.lfsr := rfl
@[simp] theorem State.answer_due (s : State) (r : Reply) : (s.answer r).due = s.due := rfl
@[simp] theorem State.answer_audioLevel (s : State) (r : Reply) : (s.answer r).audioLevel = s.audioLevel := rfl
@[simp] theorem State.answer_out (s : State) (r : Reply) : (s.answer r).out = s.out := rfl
@[simp] theorem State.answer_fb (s : State) (r : Reply) : (s.answer r).fb = s.fb := rfl
@[simp] theorem State.answer_overrun (s : State) (r : Reply) : (s.answer r).overrun = s.overrun := rfl
@[simp] theorem State.answer_mem (s : State) (r : Reply) : (s.answer r).mem = s.mem := rfl
@[simp] theorem State.answer_stim (s : State) (r : Reply) : (s.answer r).stim = s.stim := rfl
@[simp] theorem State.answer_reply (s : State) (r : Reply) : (s.answer r).reply = r := rfl

/-! ## emit -/

@[simp] theorem State.emit_regs (s : State) (ws : List CmdWord) : (s.emit ws).regs = s.regs := rfl
@[simp] theorem State.emit_mode (s : State) (ws : List CmdWord) : (s.emit ws).mode = s.mode := rfl
@[simp] theorem State.emit_hc (s : State) (ws : List CmdWord) : (s.emit ws).hc = s.hc := rfl
@[simp] theorem State.emit_vc (s : State) (ws : List CmdWord) : (s.emit ws).vc = s.vc := rfl
@[simp] theorem State.emit_lineParity (s : State) (ws : List CmdWord) : (s.emit ws).lineParity = s.lineParity := rfl
@[simp] theorem State.emit_field (s : State) (ws : List CmdWord) : (s.emit ws).field = s.field := rfl
@[simp] theorem State.emit_fstate (s : State) (ws : List CmdWord) : (s.emit ws).fstate = s.fstate := rfl
@[simp] theorem State.emit_hcc (s : State) (ws : List CmdWord) : (s.emit ws).hcc = s.hcc := rfl
@[simp] theorem State.emit_vcc (s : State) (ws : List CmdWord) : (s.emit ws).vcc = s.vcc := rfl
@[simp] theorem State.emit_cdc (s : State) (ws : List CmdWord) : (s.emit ws).cdc = s.cdc := rfl
@[simp] theorem State.emit_vmc (s : State) (ws : List CmdWord) : (s.emit ws).vmc = s.vmc := rfl
@[simp] theorem State.emit_vmcl (s : State) (ws : List CmdWord) : (s.emit ws).vmcl = s.vmcl := rfl
@[simp] theorem State.emit_code (s : State) (ws : List CmdWord) : (s.emit ws).code = s.code := rfl
@[simp] theorem State.emit_colr (s : State) (ws : List CmdWord) : (s.emit ws).colr = s.colr := rfl
@[simp] theorem State.emit_pipe (s : State) (ws : List CmdWord) : (s.emit ws).pipe = s.pipe := rfl
@[simp] theorem State.emit_fbcol (s : State) (ws : List CmdWord) : (s.emit ws).fbcol = s.fbcol := rfl
@[simp] theorem State.emit_ap (s : State) (ws : List CmdWord) : (s.emit ws).ap = s.ap := rfl
@[simp] theorem State.emit_ctr (s : State) (ws : List CmdWord) : (s.emit ws).ctr = s.ctr := rfl
@[simp] theorem State.emit_sr (s : State) (ws : List CmdWord) : (s.emit ws).sr = s.sr := rfl
@[simp] theorem State.emit_lfsr (s : State) (ws : List CmdWord) : (s.emit ws).lfsr = s.lfsr := rfl
@[simp] theorem State.emit_due (s : State) (ws : List CmdWord) : (s.emit ws).due = s.due := rfl
@[simp] theorem State.emit_audioLevel (s : State) (ws : List CmdWord) : (s.emit ws).audioLevel = s.audioLevel := rfl
@[simp] theorem State.emit_out (s : State) (ws : List CmdWord) : (s.emit ws).out = s.out ++ ws := rfl
@[simp] theorem State.emit_fb (s : State) (ws : List CmdWord) : (s.emit ws).fb = s.fb := rfl
@[simp] theorem State.emit_overrun (s : State) (ws : List CmdWord) : (s.emit ws).overrun = s.overrun := rfl
@[simp] theorem State.emit_mem (s : State) (ws : List CmdWord) : (s.emit ws).mem = s.mem := rfl
@[simp] theorem State.emit_stim (s : State) (ws : List CmdWord) : (s.emit ws).stim = s.stim := rfl
@[simp] theorem State.emit_reply (s : State) (ws : List CmdWord) : (s.emit ws).reply = s.reply := rfl

/-! ## setMemByte -/

@[simp] theorem State.setMemByte_regs (cfg : Config) (s : State) (i : MemIx) (v : Byte) : (s.setMemByte cfg i v).regs = s.regs := rfl
@[simp] theorem State.setMemByte_mode (cfg : Config) (s : State) (i : MemIx) (v : Byte) : (s.setMemByte cfg i v).mode = s.mode := rfl
@[simp] theorem State.setMemByte_hc (cfg : Config) (s : State) (i : MemIx) (v : Byte) : (s.setMemByte cfg i v).hc = s.hc := rfl
@[simp] theorem State.setMemByte_vc (cfg : Config) (s : State) (i : MemIx) (v : Byte) : (s.setMemByte cfg i v).vc = s.vc := rfl
@[simp] theorem State.setMemByte_lineParity (cfg : Config) (s : State) (i : MemIx) (v : Byte) : (s.setMemByte cfg i v).lineParity = s.lineParity := rfl
@[simp] theorem State.setMemByte_field (cfg : Config) (s : State) (i : MemIx) (v : Byte) : (s.setMemByte cfg i v).field = s.field := rfl
@[simp] theorem State.setMemByte_fstate (cfg : Config) (s : State) (i : MemIx) (v : Byte) : (s.setMemByte cfg i v).fstate = s.fstate := rfl
@[simp] theorem State.setMemByte_hcc (cfg : Config) (s : State) (i : MemIx) (v : Byte) : (s.setMemByte cfg i v).hcc = s.hcc := rfl
@[simp] theorem State.setMemByte_vcc (cfg : Config) (s : State) (i : MemIx) (v : Byte) : (s.setMemByte cfg i v).vcc = s.vcc := rfl
@[simp] theorem State.setMemByte_cdc (cfg : Config) (s : State) (i : MemIx) (v : Byte) : (s.setMemByte cfg i v).cdc = s.cdc := rfl
@[simp] theorem State.setMemByte_vmc (cfg : Config) (s : State) (i : MemIx) (v : Byte) : (s.setMemByte cfg i v).vmc = s.vmc := rfl
@[simp] theorem State.setMemByte_vmcl (cfg : Config) (s : State) (i : MemIx) (v : Byte) : (s.setMemByte cfg i v).vmcl = s.vmcl := rfl
@[simp] theorem State.setMemByte_code (cfg : Config) (s : State) (i : MemIx) (v : Byte) : (s.setMemByte cfg i v).code = s.code := rfl
@[simp] theorem State.setMemByte_colr (cfg : Config) (s : State) (i : MemIx) (v : Byte) : (s.setMemByte cfg i v).colr = s.colr := rfl
@[simp] theorem State.setMemByte_pipe (cfg : Config) (s : State) (i : MemIx) (v : Byte) : (s.setMemByte cfg i v).pipe = s.pipe := rfl
@[simp] theorem State.setMemByte_fbcol (cfg : Config) (s : State) (i : MemIx) (v : Byte) : (s.setMemByte cfg i v).fbcol = s.fbcol := rfl
@[simp] theorem State.setMemByte_ap (cfg : Config) (s : State) (i : MemIx) (v : Byte) : (s.setMemByte cfg i v).ap = s.ap := rfl
@[simp] theorem State.setMemByte_ctr (cfg : Config) (s : State) (i : MemIx) (v : Byte) : (s.setMemByte cfg i v).ctr = s.ctr := rfl
@[simp] theorem State.setMemByte_sr (cfg : Config) (s : State) (i : MemIx) (v : Byte) : (s.setMemByte cfg i v).sr = s.sr := rfl
@[simp] theorem State.setMemByte_lfsr (cfg : Config) (s : State) (i : MemIx) (v : Byte) : (s.setMemByte cfg i v).lfsr = s.lfsr := rfl
@[simp] theorem State.setMemByte_due (cfg : Config) (s : State) (i : MemIx) (v : Byte) : (s.setMemByte cfg i v).due = s.due := rfl
@[simp] theorem State.setMemByte_audioLevel (cfg : Config) (s : State) (i : MemIx) (v : Byte) : (s.setMemByte cfg i v).audioLevel = s.audioLevel := rfl
@[simp] theorem State.setMemByte_out (cfg : Config) (s : State) (i : MemIx) (v : Byte) : (s.setMemByte cfg i v).out = s.out := rfl
@[simp] theorem State.setMemByte_fb (cfg : Config) (s : State) (i : MemIx) (v : Byte) : (s.setMemByte cfg i v).fb = s.fb := rfl
@[simp] theorem State.setMemByte_overrun (cfg : Config) (s : State) (i : MemIx) (v : Byte) : (s.setMemByte cfg i v).overrun = s.overrun := rfl
@[simp] theorem State.setMemByte_mem (cfg : Config) (s : State) (i : MemIx) (v : Byte) : (s.setMemByte cfg i v).mem = s.mem.write cfg.memInit i.toNat v := rfl
@[simp] theorem State.setMemByte_stim (cfg : Config) (s : State) (i : MemIx) (v : Byte) : (s.setMemByte cfg i v).stim = s.stim := rfl
@[simp] theorem State.setMemByte_reply (cfg : Config) (s : State) (i : MemIx) (v : Byte) : (s.setMemByte cfg i v).reply = s.reply := rfl

/-! ## pushStimulus -/

@[simp] theorem State.pushStimulus_regs (s : State) (w : Word) : (s.pushStimulus w).regs = s.regs := rfl
@[simp] theorem State.pushStimulus_mode (s : State) (w : Word) : (s.pushStimulus w).mode = s.mode := rfl
@[simp] theorem State.pushStimulus_hc (s : State) (w : Word) : (s.pushStimulus w).hc = s.hc := rfl
@[simp] theorem State.pushStimulus_vc (s : State) (w : Word) : (s.pushStimulus w).vc = s.vc := rfl
@[simp] theorem State.pushStimulus_lineParity (s : State) (w : Word) : (s.pushStimulus w).lineParity = s.lineParity := rfl
@[simp] theorem State.pushStimulus_field (s : State) (w : Word) : (s.pushStimulus w).field = s.field := rfl
@[simp] theorem State.pushStimulus_fstate (s : State) (w : Word) : (s.pushStimulus w).fstate = s.fstate := rfl
@[simp] theorem State.pushStimulus_hcc (s : State) (w : Word) : (s.pushStimulus w).hcc = s.hcc := rfl
@[simp] theorem State.pushStimulus_vcc (s : State) (w : Word) : (s.pushStimulus w).vcc = s.vcc := rfl
@[simp] theorem State.pushStimulus_cdc (s : State) (w : Word) : (s.pushStimulus w).cdc = s.cdc := rfl
@[simp] theorem State.pushStimulus_vmc (s : State) (w : Word) : (s.pushStimulus w).vmc = s.vmc := rfl
@[simp] theorem State.pushStimulus_vmcl (s : State) (w : Word) : (s.pushStimulus w).vmcl = s.vmcl := rfl
@[simp] theorem State.pushStimulus_code (s : State) (w : Word) : (s.pushStimulus w).code = s.code := rfl
@[simp] theorem State.pushStimulus_colr (s : State) (w : Word) : (s.pushStimulus w).colr = s.colr := rfl
@[simp] theorem State.pushStimulus_pipe (s : State) (w : Word) : (s.pushStimulus w).pipe = s.pipe := rfl
@[simp] theorem State.pushStimulus_fbcol (s : State) (w : Word) : (s.pushStimulus w).fbcol = s.fbcol := rfl
@[simp] theorem State.pushStimulus_ap (s : State) (w : Word) : (s.pushStimulus w).ap = s.ap := rfl
@[simp] theorem State.pushStimulus_ctr (s : State) (w : Word) : (s.pushStimulus w).ctr = s.ctr := rfl
@[simp] theorem State.pushStimulus_sr (s : State) (w : Word) : (s.pushStimulus w).sr = s.sr := rfl
@[simp] theorem State.pushStimulus_lfsr (s : State) (w : Word) : (s.pushStimulus w).lfsr = s.lfsr := rfl
@[simp] theorem State.pushStimulus_due (s : State) (w : Word) : (s.pushStimulus w).due = s.due := rfl
@[simp] theorem State.pushStimulus_audioLevel (s : State) (w : Word) : (s.pushStimulus w).audioLevel = s.audioLevel := rfl
@[simp] theorem State.pushStimulus_out (s : State) (w : Word) : (s.pushStimulus w).out = s.out := rfl
@[simp] theorem State.pushStimulus_fb (s : State) (w : Word) : (s.pushStimulus w).fb = s.fb := rfl
@[simp] theorem State.pushStimulus_overrun (s : State) (w : Word) : (s.pushStimulus w).overrun = s.overrun := rfl
@[simp] theorem State.pushStimulus_mem (s : State) (w : Word) : (s.pushStimulus w).mem = s.mem := rfl
@[simp] theorem State.pushStimulus_stim (s : State) (w : Word) : (s.pushStimulus w).stim = w :: s.stim := rfl
@[simp] theorem State.pushStimulus_reply (s : State) (w : Word) : (s.pushStimulus w).reply = s.reply := rfl

/-! ## setChannel -/

@[simp] theorem State.setChannel_regs (s : State) (i : Channel) (c : BitVec 7) (d : Bool) : (s.setChannel i c d).regs = s.regs := rfl
@[simp] theorem State.setChannel_mode (s : State) (i : Channel) (c : BitVec 7) (d : Bool) : (s.setChannel i c d).mode = s.mode := rfl
@[simp] theorem State.setChannel_hc (s : State) (i : Channel) (c : BitVec 7) (d : Bool) : (s.setChannel i c d).hc = s.hc := rfl
@[simp] theorem State.setChannel_vc (s : State) (i : Channel) (c : BitVec 7) (d : Bool) : (s.setChannel i c d).vc = s.vc := rfl
@[simp] theorem State.setChannel_lineParity (s : State) (i : Channel) (c : BitVec 7) (d : Bool) : (s.setChannel i c d).lineParity = s.lineParity := rfl
@[simp] theorem State.setChannel_field (s : State) (i : Channel) (c : BitVec 7) (d : Bool) : (s.setChannel i c d).field = s.field := rfl
@[simp] theorem State.setChannel_fstate (s : State) (i : Channel) (c : BitVec 7) (d : Bool) : (s.setChannel i c d).fstate = s.fstate := rfl
@[simp] theorem State.setChannel_hcc (s : State) (i : Channel) (c : BitVec 7) (d : Bool) : (s.setChannel i c d).hcc = s.hcc := rfl
@[simp] theorem State.setChannel_vcc (s : State) (i : Channel) (c : BitVec 7) (d : Bool) : (s.setChannel i c d).vcc = s.vcc := rfl
@[simp] theorem State.setChannel_cdc (s : State) (i : Channel) (c : BitVec 7) (d : Bool) : (s.setChannel i c d).cdc = s.cdc := rfl
@[simp] theorem State.setChannel_vmc (s : State) (i : Channel) (c : BitVec 7) (d : Bool) : (s.setChannel i c d).vmc = s.vmc := rfl
@[simp] theorem State.setChannel_vmcl (s : State) (i : Channel) (c : BitVec 7) (d : Bool) : (s.setChannel i c d).vmcl = s.vmcl := rfl
@[simp] theorem State.setChannel_code (s : State) (i : Channel) (c : BitVec 7) (d : Bool) : (s.setChannel i c d).code = s.code := rfl
@[simp] theorem State.setChannel_colr (s : State) (i : Channel) (c : BitVec 7) (d : Bool) : (s.setChannel i c d).colr = s.colr := rfl
@[simp] theorem State.setChannel_pipe (s : State) (i : Channel) (c : BitVec 7) (d : Bool) : (s.setChannel i c d).pipe = s.pipe := rfl
@[simp] theorem State.setChannel_fbcol (s : State) (i : Channel) (c : BitVec 7) (d : Bool) : (s.setChannel i c d).fbcol = s.fbcol := rfl
@[simp] theorem State.setChannel_ap (s : State) (i : Channel) (c : BitVec 7) (d : Bool) : (s.setChannel i c d).ap = s.ap := rfl
@[simp] theorem State.setChannel_ctr (s : State) (i : Channel) (c : BitVec 7) (d : Bool) : (s.setChannel i c d).ctr = s.ctr.set i.val c i.isLt := rfl
@[simp] theorem State.setChannel_sr (s : State) (i : Channel) (c : BitVec 7) (d : Bool) : (s.setChannel i c d).sr = s.sr := rfl
@[simp] theorem State.setChannel_lfsr (s : State) (i : Channel) (c : BitVec 7) (d : Bool) : (s.setChannel i c d).lfsr = s.lfsr := rfl
@[simp] theorem State.setChannel_due (s : State) (i : Channel) (c : BitVec 7) (d : Bool) : (s.setChannel i c d).due = s.due.set i.val d i.isLt := rfl
@[simp] theorem State.setChannel_audioLevel (s : State) (i : Channel) (c : BitVec 7) (d : Bool) : (s.setChannel i c d).audioLevel = s.audioLevel := rfl
@[simp] theorem State.setChannel_out (s : State) (i : Channel) (c : BitVec 7) (d : Bool) : (s.setChannel i c d).out = s.out := rfl
@[simp] theorem State.setChannel_fb (s : State) (i : Channel) (c : BitVec 7) (d : Bool) : (s.setChannel i c d).fb = s.fb := rfl
@[simp] theorem State.setChannel_overrun (s : State) (i : Channel) (c : BitVec 7) (d : Bool) : (s.setChannel i c d).overrun = s.overrun := rfl
@[simp] theorem State.setChannel_mem (s : State) (i : Channel) (c : BitVec 7) (d : Bool) : (s.setChannel i c d).mem = s.mem := rfl
@[simp] theorem State.setChannel_stim (s : State) (i : Channel) (c : BitVec 7) (d : Bool) : (s.setChannel i c d).stim = s.stim := rfl
@[simp] theorem State.setChannel_reply (s : State) (i : Channel) (c : BitVec 7) (d : Bool) : (s.setChannel i c d).reply = s.reply := rfl

/-! ## Readings of the bank and the mode after a reply -/

@[simp] theorem State.answer_reg (s : State) (r : Reply) (i : RegIx) : (s.answer r).reg i = s.reg i := rfl
@[simp] theorem State.answer_standard (s : State) (r : Reply) : (s.answer r).standard = s.standard := rfl
@[simp] theorem State.setReg_standard (s : State) (i : RegIx) (v : Byte) : (s.setReg i v).standard = s.standard := rfl
@[simp] theorem State.answer_memByte (cfg : Config) (s : State) (r : Reply) (i : MemIx) :
    (s.answer r).memByte cfg i = s.memByte cfg i := rfl
@[simp] theorem State.answer_fbCell (cfg : Config) (s : State) (r : Reply) (y x : Nat) :
    (s.answer r).fbCell cfg y x = s.fbCell cfg y x := rfl

/-! ## The register bank -/

/-- A register reads as last written (R241, R539). -/
@[simp] theorem State.reg_setReg_same (s : State) (i : RegIx) (v : Byte) : (s.setReg i v).reg i = v := by
  simp [State.reg]

/-- A write leaves every other register alone (R241). -/
theorem State.reg_setReg_other (s : State) (i j : RegIx) (v : Byte) (h : j ≠ i) : (s.setReg i v).reg j = s.reg j := by
  have h' : i.val ≠ j.val := fun e => h (Fin.ext e.symm)
  simp [State.reg, h']

end Sys2Proof.Machine
end

