-- ==== Sys2Proof/Laws/Tick.lean ====
section
/-! SUPPORT. The frame of each pass of a TICK: one lemma per pass and field it leaves alone, and what a whole TICK leaves alone. -/

namespace Sys2Proof.Machine

/-! ## pixelRefill -/

@[simp] theorem pixelRefill_regs (s : State) : (pixelRefill s).regs = s.regs := rfl
@[simp] theorem pixelRefill_mode (s : State) : (pixelRefill s).mode = s.mode := rfl
@[simp] theorem pixelRefill_hc (s : State) : (pixelRefill s).hc = s.hc := rfl
@[simp] theorem pixelRefill_vc (s : State) : (pixelRefill s).vc = s.vc := rfl
@[simp] theorem pixelRefill_lineParity (s : State) : (pixelRefill s).lineParity = s.lineParity := rfl
@[simp] theorem pixelRefill_field (s : State) : (pixelRefill s).field = s.field := rfl
@[simp] theorem pixelRefill_fstate (s : State) : (pixelRefill s).fstate = s.fstate := rfl
@[simp] theorem pixelRefill_hcc (s : State) : (pixelRefill s).hcc = s.hcc := rfl
@[simp] theorem pixelRefill_vcc (s : State) : (pixelRefill s).vcc = s.vcc := rfl
@[simp] theorem pixelRefill_cdc (s : State) : (pixelRefill s).cdc = s.cdc := rfl
@[simp] theorem pixelRefill_vmc (s : State) : (pixelRefill s).vmc = s.vmc := rfl
@[simp] theorem pixelRefill_vmcl (s : State) : (pixelRefill s).vmcl = s.vmcl := rfl
@[simp] theorem pixelRefill_code (s : State) : (pixelRefill s).code = s.code := rfl
@[simp] theorem pixelRefill_colr (s : State) : (pixelRefill s).colr = s.colr := rfl
@[simp] theorem pixelRefill_fbcol (s : State) : (pixelRefill s).fbcol = s.fbcol := rfl
@[simp] theorem pixelRefill_ap (s : State) : (pixelRefill s).ap = s.ap := rfl
@[simp] theorem pixelRefill_ctr (s : State) : (pixelRefill s).ctr = s.ctr := rfl
@[simp] theorem pixelRefill_sr (s : State) : (pixelRefill s).sr = s.sr := rfl
@[simp] theorem pixelRefill_lfsr (s : State) : (pixelRefill s).lfsr = s.lfsr := rfl
@[simp] theorem pixelRefill_due (s : State) : (pixelRefill s).due = s.due := rfl
@[simp] theorem pixelRefill_audioLevel (s : State) : (pixelRefill s).audioLevel = s.audioLevel := rfl
@[simp] theorem pixelRefill_out (s : State) : (pixelRefill s).out = s.out := rfl
@[simp] theorem pixelRefill_fb (s : State) : (pixelRefill s).fb = s.fb := rfl
@[simp] theorem pixelRefill_overrun (s : State) : (pixelRefill s).overrun = s.overrun := rfl
@[simp] theorem pixelRefill_mem (s : State) : (pixelRefill s).mem = s.mem := rfl
@[simp] theorem pixelRefill_stim (s : State) : (pixelRefill s).stim = s.stim := rfl
@[simp] theorem pixelRefill_reply (s : State) : (pixelRefill s).reply = s.reply := rfl

/-! ## matrixOpen -/

@[simp] theorem matrixOpen_regs (s : State) : (matrixOpen s).regs = s.regs := rfl
@[simp] theorem matrixOpen_mode (s : State) : (matrixOpen s).mode = s.mode := rfl
@[simp] theorem matrixOpen_hc (s : State) : (matrixOpen s).hc = s.hc := rfl
@[simp] theorem matrixOpen_vc (s : State) : (matrixOpen s).vc = s.vc := rfl
@[simp] theorem matrixOpen_lineParity (s : State) : (matrixOpen s).lineParity = s.lineParity := rfl
@[simp] theorem matrixOpen_field (s : State) : (matrixOpen s).field = s.field := rfl
@[simp] theorem matrixOpen_hcc (s : State) : (matrixOpen s).hcc = s.hcc := rfl
@[simp] theorem matrixOpen_code (s : State) : (matrixOpen s).code = s.code := rfl
@[simp] theorem matrixOpen_colr (s : State) : (matrixOpen s).colr = s.colr := rfl
@[simp] theorem matrixOpen_pipe (s : State) : (matrixOpen s).pipe = s.pipe := rfl
@[simp] theorem matrixOpen_fbcol (s : State) : (matrixOpen s).fbcol = s.fbcol := rfl
@[simp] theorem matrixOpen_ap (s : State) : (matrixOpen s).ap = s.ap := rfl
@[simp] theorem matrixOpen_ctr (s : State) : (matrixOpen s).ctr = s.ctr := rfl
@[simp] theorem matrixOpen_sr (s : State) : (matrixOpen s).sr = s.sr := rfl
@[simp] theorem matrixOpen_lfsr (s : State) : (matrixOpen s).lfsr = s.lfsr := rfl
@[simp] theorem matrixOpen_due (s : State) : (matrixOpen s).due = s.due := rfl
@[simp] theorem matrixOpen_audioLevel (s : State) : (matrixOpen s).audioLevel = s.audioLevel := rfl
@[simp] theorem matrixOpen_out (s : State) : (matrixOpen s).out = s.out := rfl
@[simp] theorem matrixOpen_fb (s : State) : (matrixOpen s).fb = s.fb := rfl
@[simp] theorem matrixOpen_overrun (s : State) : (matrixOpen s).overrun = s.overrun := rfl
@[simp] theorem matrixOpen_mem (s : State) : (matrixOpen s).mem = s.mem := rfl
@[simp] theorem matrixOpen_stim (s : State) : (matrixOpen s).stim = s.stim := rfl
@[simp] theorem matrixOpen_reply (s : State) : (matrixOpen s).reply = s.reply := rfl

/-! ## yCompare -/

@[simp] theorem yCompare_regs (vc0 : BitVec 9) (s : State) : (yCompare vc0 s).regs = s.regs := by
  unfold yCompare; split <;> rfl
@[simp] theorem yCompare_mode (vc0 : BitVec 9) (s : State) : (yCompare vc0 s).mode = s.mode := by
  unfold yCompare; split <;> rfl
@[simp] theorem yCompare_hc (vc0 : BitVec 9) (s : State) : (yCompare vc0 s).hc = s.hc := by
  unfold yCompare; split <;> rfl
@[simp] theorem yCompare_vc (vc0 : BitVec 9) (s : State) : (yCompare vc0 s).vc = s.vc := by
  unfold yCompare; split <;> rfl
@[simp] theorem yCompare_lineParity (vc0 : BitVec 9) (s : State) : (yCompare vc0 s).lineParity = s.lineParity := by
  unfold yCompare; split <;> rfl
@[simp] theorem yCompare_field (vc0 : BitVec 9) (s : State) : (yCompare vc0 s).field = s.field := by
  unfold yCompare; split <;> rfl
@[simp] theorem yCompare_hcc (vc0 : BitVec 9) (s : State) : (yCompare vc0 s).hcc = s.hcc := by
  unfold yCompare; split <;> rfl
@[simp] theorem yCompare_code (vc0 : BitVec 9) (s : State) : (yCompare vc0 s).code = s.code := by
  unfold yCompare; split <;> rfl
@[simp] theorem yCompare_colr (vc0 : BitVec 9) (s : State) : (yCompare vc0 s).colr = s.colr := by
  unfold yCompare; split <;> rfl
@[simp] theorem yCompare_pipe (vc0 : BitVec 9) (s : State) : (yCompare vc0 s).pipe = s.pipe := by
  unfold yCompare; split <;> rfl
@[simp] theorem yCompare_fbcol (vc0 : BitVec 9) (s : State) : (yCompare vc0 s).fbcol = s.fbcol := by
  unfold yCompare; split <;> rfl
@[simp] theorem yCompare_ap (vc0 : BitVec 9) (s : State) : (yCompare vc0 s).ap = s.ap := by
  unfold yCompare; split <;> rfl
@[simp] theorem yCompare_ctr (vc0 : BitVec 9) (s : State) : (yCompare vc0 s).ctr = s.ctr := by
  unfold yCompare; split <;> rfl
@[simp] theorem yCompare_sr (vc0 : BitVec 9) (s : State) : (yCompare vc0 s).sr = s.sr := by
  unfold yCompare; split <;> rfl
@[simp] theorem yCompare_lfsr (vc0 : BitVec 9) (s : State) : (yCompare vc0 s).lfsr = s.lfsr := by
  unfold yCompare; split <;> rfl
@[simp] theorem yCompare_due (vc0 : BitVec 9) (s : State) : (yCompare vc0 s).due = s.due := by
  unfold yCompare; split <;> rfl
@[simp] theorem yCompare_audioLevel (vc0 : BitVec 9) (s : State) : (yCompare vc0 s).audioLevel = s.audioLevel := by
  unfold yCompare; split <;> rfl
@[simp] theorem yCompare_out (vc0 : BitVec 9) (s : State) : (yCompare vc0 s).out = s.out := by
  unfold yCompare; split <;> rfl
@[simp] theorem yCompare_fb (vc0 : BitVec 9) (s : State) : (yCompare vc0 s).fb = s.fb := by
  unfold yCompare; split <;> rfl
@[simp] theorem yCompare_overrun (vc0 : BitVec 9) (s : State) : (yCompare vc0 s).overrun = s.overrun := by
  unfold yCompare; split <;> rfl
@[simp] theorem yCompare_mem (vc0 : BitVec 9) (s : State) : (yCompare vc0 s).mem = s.mem := by
  unfold yCompare; split <;> rfl
@[simp] theorem yCompare_stim (vc0 : BitVec 9) (s : State) : (yCompare vc0 s).stim = s.stim := by
  unfold yCompare; split <;> rfl
@[simp] theorem yCompare_reply (vc0 : BitVec 9) (s : State) : (yCompare vc0 s).reply = s.reply := by
  unfold yCompare; split <;> rfl

/-! ## xCompare -/

@[simp] theorem xCompare_regs (hc0 : BitVec 7) (s : State) : (xCompare hc0 s).regs = s.regs := by
  unfold xCompare; split <;> rfl
@[simp] theorem xCompare_mode (hc0 : BitVec 7) (s : State) : (xCompare hc0 s).mode = s.mode := by
  unfold xCompare; split <;> rfl
@[simp] theorem xCompare_hc (hc0 : BitVec 7) (s : State) : (xCompare hc0 s).hc = s.hc := by
  unfold xCompare; split <;> rfl
@[simp] theorem xCompare_vc (hc0 : BitVec 7) (s : State) : (xCompare hc0 s).vc = s.vc := by
  unfold xCompare; split <;> rfl
@[simp] theorem xCompare_lineParity (hc0 : BitVec 7) (s : State) : (xCompare hc0 s).lineParity = s.lineParity := by
  unfold xCompare; split <;> rfl
@[simp] theorem xCompare_field (hc0 : BitVec 7) (s : State) : (xCompare hc0 s).field = s.field := by
  unfold xCompare; split <;> rfl
@[simp] theorem xCompare_hcc (hc0 : BitVec 7) (s : State) : (xCompare hc0 s).hcc = s.hcc := by
  unfold xCompare; split <;> rfl
@[simp] theorem xCompare_vcc (hc0 : BitVec 7) (s : State) : (xCompare hc0 s).vcc = s.vcc := by
  unfold xCompare; split <;> rfl
@[simp] theorem xCompare_cdc (hc0 : BitVec 7) (s : State) : (xCompare hc0 s).cdc = s.cdc := by
  unfold xCompare; split <;> rfl
@[simp] theorem xCompare_vmc (hc0 : BitVec 7) (s : State) : (xCompare hc0 s).vmc = s.vmc := by
  unfold xCompare; split <;> rfl
@[simp] theorem xCompare_vmcl (hc0 : BitVec 7) (s : State) : (xCompare hc0 s).vmcl = s.vmcl := by
  unfold xCompare; split <;> rfl
@[simp] theorem xCompare_code (hc0 : BitVec 7) (s : State) : (xCompare hc0 s).code = s.code := by
  unfold xCompare; split <;> rfl
@[simp] theorem xCompare_colr (hc0 : BitVec 7) (s : State) : (xCompare hc0 s).colr = s.colr := by
  unfold xCompare; split <;> rfl
@[simp] theorem xCompare_pipe (hc0 : BitVec 7) (s : State) : (xCompare hc0 s).pipe = s.pipe := by
  unfold xCompare; split <;> rfl
@[simp] theorem xCompare_fbcol (hc0 : BitVec 7) (s : State) : (xCompare hc0 s).fbcol = s.fbcol := by
  unfold xCompare; split <;> rfl
@[simp] theorem xCompare_ap (hc0 : BitVec 7) (s : State) : (xCompare hc0 s).ap = s.ap := by
  unfold xCompare; split <;> rfl
@[simp] theorem xCompare_ctr (hc0 : BitVec 7) (s : State) : (xCompare hc0 s).ctr = s.ctr := by
  unfold xCompare; split <;> rfl
@[simp] theorem xCompare_sr (hc0 : BitVec 7) (s : State) : (xCompare hc0 s).sr = s.sr := by
  unfold xCompare; split <;> rfl
@[simp] theorem xCompare_lfsr (hc0 : BitVec 7) (s : State) : (xCompare hc0 s).lfsr = s.lfsr := by
  unfold xCompare; split <;> rfl
@[simp] theorem xCompare_due (hc0 : BitVec 7) (s : State) : (xCompare hc0 s).due = s.due := by
  unfold xCompare; split <;> rfl
@[simp] theorem xCompare_audioLevel (hc0 : BitVec 7) (s : State) : (xCompare hc0 s).audioLevel = s.audioLevel := by
  unfold xCompare; split <;> rfl
@[simp] theorem xCompare_out (hc0 : BitVec 7) (s : State) : (xCompare hc0 s).out = s.out := by
  unfold xCompare; split <;> rfl
@[simp] theorem xCompare_fb (hc0 : BitVec 7) (s : State) : (xCompare hc0 s).fb = s.fb := by
  unfold xCompare; split <;> rfl
@[simp] theorem xCompare_overrun (hc0 : BitVec 7) (s : State) : (xCompare hc0 s).overrun = s.overrun := by
  unfold xCompare; split <;> rfl
@[simp] theorem xCompare_mem (hc0 : BitVec 7) (s : State) : (xCompare hc0 s).mem = s.mem := by
  unfold xCompare; split <;> rfl
@[simp] theorem xCompare_stim (hc0 : BitVec 7) (s : State) : (xCompare hc0 s).stim = s.stim := by
  unfold xCompare; split <;> rfl
@[simp] theorem xCompare_reply (hc0 : BitVec 7) (s : State) : (xCompare hc0 s).reply = s.reply := by
  unfold xCompare; split <;> rfl

/-! ## fetchPass -/

@[simp] theorem fetchPass_regs (cfg : Config) (hc0 : BitVec 7) (vc0 : BitVec 9) (s : State) : (fetchPass cfg hc0 vc0 s).regs = s.regs := by
  unfold fetchPass; split <;> simp [screenCodeFetch, charDataFetch]
@[simp] theorem fetchPass_mode (cfg : Config) (hc0 : BitVec 7) (vc0 : BitVec 9) (s : State) : (fetchPass cfg hc0 vc0 s).mode = s.mode := by
  unfold fetchPass; split <;> simp [screenCodeFetch, charDataFetch]
@[simp] theorem fetchPass_hc (cfg : Config) (hc0 : BitVec 7) (vc0 : BitVec 9) (s : State) : (fetchPass cfg hc0 vc0 s).hc = s.hc := by
  unfold fetchPass; split <;> simp [screenCodeFetch, charDataFetch]
@[simp] theorem fetchPass_vc (cfg : Config) (hc0 : BitVec 7) (vc0 : BitVec 9) (s : State) : (fetchPass cfg hc0 vc0 s).vc = s.vc := by
  unfold fetchPass; split <;> simp [screenCodeFetch, charDataFetch]
@[simp] theorem fetchPass_lineParity (cfg : Config) (hc0 : BitVec 7) (vc0 : BitVec 9) (s : State) : (fetchPass cfg hc0 vc0 s).lineParity = s.lineParity := by
  unfold fetchPass; split <;> simp [screenCodeFetch, charDataFetch]
@[simp] theorem fetchPass_field (cfg : Config) (hc0 : BitVec 7) (vc0 : BitVec 9) (s : State) : (fetchPass cfg hc0 vc0 s).field = s.field := by
  unfold fetchPass; split <;> simp [screenCodeFetch, charDataFetch]
@[simp] theorem fetchPass_fbcol (cfg : Config) (hc0 : BitVec 7) (vc0 : BitVec 9) (s : State) : (fetchPass cfg hc0 vc0 s).fbcol = s.fbcol := by
  unfold fetchPass; split <;> simp [screenCodeFetch, charDataFetch]
@[simp] theorem fetchPass_ap (cfg : Config) (hc0 : BitVec 7) (vc0 : BitVec 9) (s : State) : (fetchPass cfg hc0 vc0 s).ap = s.ap := by
  unfold fetchPass; split <;> simp [screenCodeFetch, charDataFetch]
@[simp] theorem fetchPass_ctr (cfg : Config) (hc0 : BitVec 7) (vc0 : BitVec 9) (s : State) : (fetchPass cfg hc0 vc0 s).ctr = s.ctr := by
  unfold fetchPass; split <;> simp [screenCodeFetch, charDataFetch]
@[simp] theorem fetchPass_sr (cfg : Config) (hc0 : BitVec 7) (vc0 : BitVec 9) (s : State) : (fetchPass cfg hc0 vc0 s).sr = s.sr := by
  unfold fetchPass; split <;> simp [screenCodeFetch, charDataFetch]
@[simp] theorem fetchPass_lfsr (cfg : Config) (hc0 : BitVec 7) (vc0 : BitVec 9) (s : State) : (fetchPass cfg hc0 vc0 s).lfsr = s.lfsr := by
  unfold fetchPass; split <;> simp [screenCodeFetch, charDataFetch]
@[simp] theorem fetchPass_due (cfg : Config) (hc0 : BitVec 7) (vc0 : BitVec 9) (s : State) : (fetchPass cfg hc0 vc0 s).due = s.due := by
  unfold fetchPass; split <;> simp [screenCodeFetch, charDataFetch]
@[simp] theorem fetchPass_audioLevel (cfg : Config) (hc0 : BitVec 7) (vc0 : BitVec 9) (s : State) : (fetchPass cfg hc0 vc0 s).audioLevel = s.audioLevel := by
  unfold fetchPass; split <;> simp [screenCodeFetch, charDataFetch]
@[simp] theorem fetchPass_out (cfg : Config) (hc0 : BitVec 7) (vc0 : BitVec 9) (s : State) : (fetchPass cfg hc0 vc0 s).out = s.out := by
  unfold fetchPass; split <;> simp [screenCodeFetch, charDataFetch]
@[simp] theorem fetchPass_fb (cfg : Config) (hc0 : BitVec 7) (vc0 : BitVec 9) (s : State) : (fetchPass cfg hc0 vc0 s).fb = s.fb := by
  unfold fetchPass; split <;> simp [screenCodeFetch, charDataFetch]
@[simp] theorem fetchPass_overrun (cfg : Config) (hc0 : BitVec 7) (vc0 : BitVec 9) (s : State) : (fetchPass cfg hc0 vc0 s).overrun = s.overrun := by
  unfold fetchPass; split <;> simp [screenCodeFetch, charDataFetch]
@[simp] theorem fetchPass_mem (cfg : Config) (hc0 : BitVec 7) (vc0 : BitVec 9) (s : State) : (fetchPass cfg hc0 vc0 s).mem = s.mem := by
  unfold fetchPass; split <;> simp [screenCodeFetch, charDataFetch]
@[simp] theorem fetchPass_stim (cfg : Config) (hc0 : BitVec 7) (vc0 : BitVec 9) (s : State) : (fetchPass cfg hc0 vc0 s).stim = s.stim := by
  unfold fetchPass; split <;> simp [screenCodeFetch, charDataFetch]
@[simp] theorem fetchPass_reply (cfg : Config) (hc0 : BitVec 7) (vc0 : BitVec 9) (s : State) : (fetchPass cfg hc0 vc0 s).reply = s.reply := by
  unfold fetchPass; split <;> simp [screenCodeFetch, charDataFetch]

/-! ## encoderStep -/

@[simp] theorem encoderStep_regs (cfg : Config) (hc0 : BitVec 7) (vc0 : BitVec 9) (batch : Vector Colour 4) (s : State) : (encoderStep cfg hc0 vc0 batch s).regs = s.regs := rfl
@[simp] theorem encoderStep_mode (cfg : Config) (hc0 : BitVec 7) (vc0 : BitVec 9) (batch : Vector Colour 4) (s : State) : (encoderStep cfg hc0 vc0 batch s).mode = s.mode := rfl
@[simp] theorem encoderStep_hc (cfg : Config) (hc0 : BitVec 7) (vc0 : BitVec 9) (batch : Vector Colour 4) (s : State) : (encoderStep cfg hc0 vc0 batch s).hc = s.hc := rfl
@[simp] theorem encoderStep_vc (cfg : Config) (hc0 : BitVec 7) (vc0 : BitVec 9) (batch : Vector Colour 4) (s : State) : (encoderStep cfg hc0 vc0 batch s).vc = s.vc := rfl
@[simp] theorem encoderStep_lineParity (cfg : Config) (hc0 : BitVec 7) (vc0 : BitVec 9) (batch : Vector Colour 4) (s : State) : (encoderStep cfg hc0 vc0 batch s).lineParity = s.lineParity := rfl
@[simp] theorem encoderStep_field (cfg : Config) (hc0 : BitVec 7) (vc0 : BitVec 9) (batch : Vector Colour 4) (s : State) : (encoderStep cfg hc0 vc0 batch s).field = s.field := rfl
@[simp] theorem encoderStep_fstate (cfg : Config) (hc0 : BitVec 7) (vc0 : BitVec 9) (batch : Vector Colour 4) (s : State) : (encoderStep cfg hc0 vc0 batch s).fstate = s.fstate := rfl
@[simp] theorem encoderStep_hcc (cfg : Config) (hc0 : BitVec 7) (vc0 : BitVec 9) (batch : Vector Colour 4) (s : State) : (encoderStep cfg hc0 vc0 batch s).hcc = s.hcc := rfl
@[simp] theorem encoderStep_vcc (cfg : Config) (hc0 : BitVec 7) (vc0 : BitVec 9) (batch : Vector Colour 4) (s : State) : (encoderStep cfg hc0 vc0 batch s).vcc = s.vcc := rfl
@[simp] theorem encoderStep_cdc (cfg : Config) (hc0 : BitVec 7) (vc0 : BitVec 9) (batch : Vector Colour 4) (s : State) : (encoderStep cfg hc0 vc0 batch s).cdc = s.cdc := rfl
@[simp] theorem encoderStep_vmc (cfg : Config) (hc0 : BitVec 7) (vc0 : BitVec 9) (batch : Vector Colour 4) (s : State) : (encoderStep cfg hc0 vc0 batch s).vmc = s.vmc := rfl
@[simp] theorem encoderStep_vmcl (cfg : Config) (hc0 : BitVec 7) (vc0 : BitVec 9) (batch : Vector Colour 4) (s : State) : (encoderStep cfg hc0 vc0 batch s).vmcl = s.vmcl := rfl
@[simp] theorem encoderStep_code (cfg : Config) (hc0 : BitVec 7) (vc0 : BitVec 9) (batch : Vector Colour 4) (s : State) : (encoderStep cfg hc0 vc0 batch s).code = s.code := rfl
@[simp] theorem encoderStep_colr (cfg : Config) (hc0 : BitVec 7) (vc0 : BitVec 9) (batch : Vector Colour 4) (s : State) : (encoderStep cfg hc0 vc0 batch s).colr = s.colr := rfl
@[simp] theorem encoderStep_pipe (cfg : Config) (hc0 : BitVec 7) (vc0 : BitVec 9) (batch : Vector Colour 4) (s : State) : (encoderStep cfg hc0 vc0 batch s).pipe = s.pipe := rfl
@[simp] theorem encoderStep_fbcol (cfg : Config) (hc0 : BitVec 7) (vc0 : BitVec 9) (batch : Vector Colour 4) (s : State) : (encoderStep cfg hc0 vc0 batch s).fbcol = s.fbcol := rfl
@[simp] theorem encoderStep_ap (cfg : Config) (hc0 : BitVec 7) (vc0 : BitVec 9) (batch : Vector Colour 4) (s : State) : (encoderStep cfg hc0 vc0 batch s).ap = s.ap := rfl
@[simp] theorem encoderStep_ctr (cfg : Config) (hc0 : BitVec 7) (vc0 : BitVec 9) (batch : Vector Colour 4) (s : State) : (encoderStep cfg hc0 vc0 batch s).ctr = s.ctr := rfl
@[simp] theorem encoderStep_sr (cfg : Config) (hc0 : BitVec 7) (vc0 : BitVec 9) (batch : Vector Colour 4) (s : State) : (encoderStep cfg hc0 vc0 batch s).sr = s.sr := rfl
@[simp] theorem encoderStep_lfsr (cfg : Config) (hc0 : BitVec 7) (vc0 : BitVec 9) (batch : Vector Colour 4) (s : State) : (encoderStep cfg hc0 vc0 batch s).lfsr = s.lfsr := rfl
@[simp] theorem encoderStep_due (cfg : Config) (hc0 : BitVec 7) (vc0 : BitVec 9) (batch : Vector Colour 4) (s : State) : (encoderStep cfg hc0 vc0 batch s).due = s.due := rfl
@[simp] theorem encoderStep_audioLevel (cfg : Config) (hc0 : BitVec 7) (vc0 : BitVec 9) (batch : Vector Colour 4) (s : State) : (encoderStep cfg hc0 vc0 batch s).audioLevel = s.audioLevel := rfl
@[simp] theorem encoderStep_fb (cfg : Config) (hc0 : BitVec 7) (vc0 : BitVec 9) (batch : Vector Colour 4) (s : State) : (encoderStep cfg hc0 vc0 batch s).fb = s.fb := rfl
@[simp] theorem encoderStep_overrun (cfg : Config) (hc0 : BitVec 7) (vc0 : BitVec 9) (batch : Vector Colour 4) (s : State) : (encoderStep cfg hc0 vc0 batch s).overrun = s.overrun := rfl
@[simp] theorem encoderStep_mem (cfg : Config) (hc0 : BitVec 7) (vc0 : BitVec 9) (batch : Vector Colour 4) (s : State) : (encoderStep cfg hc0 vc0 batch s).mem = s.mem := rfl
@[simp] theorem encoderStep_stim (cfg : Config) (hc0 : BitVec 7) (vc0 : BitVec 9) (batch : Vector Colour 4) (s : State) : (encoderStep cfg hc0 vc0 batch s).stim = s.stim := rfl
@[simp] theorem encoderStep_reply (cfg : Config) (hc0 : BitVec 7) (vc0 : BitVec 9) (batch : Vector Colour 4) (s : State) : (encoderStep cfg hc0 vc0 batch s).reply = s.reply := rfl

/-! ## framebufferStep -/

@[simp] theorem framebufferStep_regs (cfg : Config) (hc0 : BitVec 7) (vc0 : BitVec 9) (batch : Vector Colour 4) (s : State) : (framebufferStep cfg hc0 vc0 batch s).regs = s.regs := by
  unfold framebufferStep; split <;> rfl
@[simp] theorem framebufferStep_mode (cfg : Config) (hc0 : BitVec 7) (vc0 : BitVec 9) (batch : Vector Colour 4) (s : State) : (framebufferStep cfg hc0 vc0 batch s).mode = s.mode := by
  unfold framebufferStep; split <;> rfl
@[simp] theorem framebufferStep_hc (cfg : Config) (hc0 : BitVec 7) (vc0 : BitVec 9) (batch : Vector Colour 4) (s : State) : (framebufferStep cfg hc0 vc0 batch s).hc = s.hc := by
  unfold framebufferStep; split <;> rfl
@[simp] theorem framebufferStep_vc (cfg : Config) (hc0 : BitVec 7) (vc0 : BitVec 9) (batch : Vector Colour 4) (s : State) : (framebufferStep cfg hc0 vc0 batch s).vc = s.vc := by
  unfold framebufferStep; split <;> rfl
@[simp] theorem framebufferStep_lineParity (cfg : Config) (hc0 : BitVec 7) (vc0 : BitVec 9) (batch : Vector Colour 4) (s : State) : (framebufferStep cfg hc0 vc0 batch s).lineParity = s.lineParity := by
  unfold framebufferStep; split <;> rfl
@[simp] theorem framebufferStep_field (cfg : Config) (hc0 : BitVec 7) (vc0 : BitVec 9) (batch : Vector Colour 4) (s : State) : (framebufferStep cfg hc0 vc0 batch s).field = s.field := by
  unfold framebufferStep; split <;> rfl
@[simp] theorem framebufferStep_fstate (cfg : Config) (hc0 : BitVec 7) (vc0 : BitVec 9) (batch : Vector Colour 4) (s : State) : (framebufferStep cfg hc0 vc0 batch s).fstate = s.fstate := by
  unfold framebufferStep; split <;> rfl
@[simp] theorem framebufferStep_hcc (cfg : Config) (hc0 : BitVec 7) (vc0 : BitVec 9) (batch : Vector Colour 4) (s : State) : (framebufferStep cfg hc0 vc0 batch s).hcc = s.hcc := by
  unfold framebufferStep; split <;> rfl
@[simp] theorem framebufferStep_vcc (cfg : Config) (hc0 : BitVec 7) (vc0 : BitVec 9) (batch : Vector Colour 4) (s : State) : (framebufferStep cfg hc0 vc0 batch s).vcc = s.vcc := by
  unfold framebufferStep; split <;> rfl
@[simp] theorem framebufferStep_cdc (cfg : Config) (hc0 : BitVec 7) (vc0 : BitVec 9) (batch : Vector Colour 4) (s : State) : (framebufferStep cfg hc0 vc0 batch s).cdc = s.cdc := by
  unfold framebufferStep; split <;> rfl
@[simp] theorem framebufferStep_vmc (cfg : Config) (hc0 : BitVec 7) (vc0 : BitVec 9) (batch : Vector Colour 4) (s : State) : (framebufferStep cfg hc0 vc0 batch s).vmc = s.vmc := by
  unfold framebufferStep; split <;> rfl
@[simp] theorem framebufferStep_vmcl (cfg : Config) (hc0 : BitVec 7) (vc0 : BitVec 9) (batch : Vector Colour 4) (s : State) : (framebufferStep cfg hc0 vc0 batch s).vmcl = s.vmcl := by
  unfold framebufferStep; split <;> rfl
@[simp] theorem framebufferStep_code (cfg : Config) (hc0 : BitVec 7) (vc0 : BitVec 9) (batch : Vector Colour 4) (s : State) : (framebufferStep cfg hc0 vc0 batch s).code = s.code := by
  unfold framebufferStep; split <;> rfl
@[simp] theorem framebufferStep_colr (cfg : Config) (hc0 : BitVec 7) (vc0 : BitVec 9) (batch : Vector Colour 4) (s : State) : (framebufferStep cfg hc0 vc0 batch s).colr = s.colr := by
  unfold framebufferStep; split <;> rfl
@[simp] theorem framebufferStep_pipe (cfg : Config) (hc0 : BitVec 7) (vc0 : BitVec 9) (batch : Vector Colour 4) (s : State) : (framebufferStep cfg hc0 vc0 batch s).pipe = s.pipe := by
  unfold framebufferStep; split <;> rfl
@[simp] theorem framebufferStep_ap (cfg : Config) (hc0 : BitVec 7) (vc0 : BitVec 9) (batch : Vector Colour 4) (s : State) : (framebufferStep cfg hc0 vc0 batch s).ap = s.ap := by
  unfold framebufferStep; split <;> rfl
@[simp] theorem framebufferStep_ctr (cfg : Config) (hc0 : BitVec 7) (vc0 : BitVec 9) (batch : Vector Colour 4) (s : State) : (framebufferStep cfg hc0 vc0 batch s).ctr = s.ctr := by
  unfold framebufferStep; split <;> rfl
@[simp] theorem framebufferStep_sr (cfg : Config) (hc0 : BitVec 7) (vc0 : BitVec 9) (batch : Vector Colour 4) (s : State) : (framebufferStep cfg hc0 vc0 batch s).sr = s.sr := by
  unfold framebufferStep; split <;> rfl
@[simp] theorem framebufferStep_lfsr (cfg : Config) (hc0 : BitVec 7) (vc0 : BitVec 9) (batch : Vector Colour 4) (s : State) : (framebufferStep cfg hc0 vc0 batch s).lfsr = s.lfsr := by
  unfold framebufferStep; split <;> rfl
@[simp] theorem framebufferStep_due (cfg : Config) (hc0 : BitVec 7) (vc0 : BitVec 9) (batch : Vector Colour 4) (s : State) : (framebufferStep cfg hc0 vc0 batch s).due = s.due := by
  unfold framebufferStep; split <;> rfl
@[simp] theorem framebufferStep_audioLevel (cfg : Config) (hc0 : BitVec 7) (vc0 : BitVec 9) (batch : Vector Colour 4) (s : State) : (framebufferStep cfg hc0 vc0 batch s).audioLevel = s.audioLevel := by
  unfold framebufferStep; split <;> rfl
@[simp] theorem framebufferStep_out (cfg : Config) (hc0 : BitVec 7) (vc0 : BitVec 9) (batch : Vector Colour 4) (s : State) : (framebufferStep cfg hc0 vc0 batch s).out = s.out := by
  unfold framebufferStep; split <;> rfl
@[simp] theorem framebufferStep_overrun (cfg : Config) (hc0 : BitVec 7) (vc0 : BitVec 9) (batch : Vector Colour 4) (s : State) : (framebufferStep cfg hc0 vc0 batch s).overrun = s.overrun := by
  unfold framebufferStep; split <;> rfl
@[simp] theorem framebufferStep_mem (cfg : Config) (hc0 : BitVec 7) (vc0 : BitVec 9) (batch : Vector Colour 4) (s : State) : (framebufferStep cfg hc0 vc0 batch s).mem = s.mem := by
  unfold framebufferStep; split <;> rfl
@[simp] theorem framebufferStep_stim (cfg : Config) (hc0 : BitVec 7) (vc0 : BitVec 9) (batch : Vector Colour 4) (s : State) : (framebufferStep cfg hc0 vc0 batch s).stim = s.stim := by
  unfold framebufferStep; split <;> rfl
@[simp] theorem framebufferStep_reply (cfg : Config) (hc0 : BitVec 7) (vc0 : BitVec 9) (batch : Vector Colour 4) (s : State) : (framebufferStep cfg hc0 vc0 batch s).reply = s.reply := by
  unfold framebufferStep; split <;> rfl

/-! ## waveStep -/

@[simp] theorem waveStep_regs (i : Channel) (en : Bool) (s : State) : (waveStep i en s).regs = s.regs := by
  unfold waveStep; split <;> rfl
@[simp] theorem waveStep_mode (i : Channel) (en : Bool) (s : State) : (waveStep i en s).mode = s.mode := by
  unfold waveStep; split <;> rfl
@[simp] theorem waveStep_hc (i : Channel) (en : Bool) (s : State) : (waveStep i en s).hc = s.hc := by
  unfold waveStep; split <;> rfl
@[simp] theorem waveStep_vc (i : Channel) (en : Bool) (s : State) : (waveStep i en s).vc = s.vc := by
  unfold waveStep; split <;> rfl
@[simp] theorem waveStep_lineParity (i : Channel) (en : Bool) (s : State) : (waveStep i en s).lineParity = s.lineParity := by
  unfold waveStep; split <;> rfl
@[simp] theorem waveStep_field (i : Channel) (en : Bool) (s : State) : (waveStep i en s).field = s.field := by
  unfold waveStep; split <;> rfl
@[simp] theorem waveStep_fstate (i : Channel) (en : Bool) (s : State) : (waveStep i en s).fstate = s.fstate := by
  unfold waveStep; split <;> rfl
@[simp] theorem waveStep_hcc (i : Channel) (en : Bool) (s : State) : (waveStep i en s).hcc = s.hcc := by
  unfold waveStep; split <;> rfl
@[simp] theorem waveStep_vcc (i : Channel) (en : Bool) (s : State) : (waveStep i en s).vcc = s.vcc := by
  unfold waveStep; split <;> rfl
@[simp] theorem waveStep_cdc (i : Channel) (en : Bool) (s : State) : (waveStep i en s).cdc = s.cdc := by
  unfold waveStep; split <;> rfl
@[simp] theorem waveStep_vmc (i : Channel) (en : Bool) (s : State) : (waveStep i en s).vmc = s.vmc := by
  unfold waveStep; split <;> rfl
@[simp] theorem waveStep_vmcl (i : Channel) (en : Bool) (s : State) : (waveStep i en s).vmcl = s.vmcl := by
  unfold waveStep; split <;> rfl
@[simp] theorem waveStep_code (i : Channel) (en : Bool) (s : State) : (waveStep i en s).code = s.code := by
  unfold waveStep; split <;> rfl
@[simp] theorem waveStep_colr (i : Channel) (en : Bool) (s : State) : (waveStep i en s).colr = s.colr := by
  unfold waveStep; split <;> rfl
@[simp] theorem waveStep_pipe (i : Channel) (en : Bool) (s : State) : (waveStep i en s).pipe = s.pipe := by
  unfold waveStep; split <;> rfl
@[simp] theorem waveStep_fbcol (i : Channel) (en : Bool) (s : State) : (waveStep i en s).fbcol = s.fbcol := by
  unfold waveStep; split <;> rfl
@[simp] theorem waveStep_ap (i : Channel) (en : Bool) (s : State) : (waveStep i en s).ap = s.ap := by
  unfold waveStep; split <;> rfl
@[simp] theorem waveStep_ctr (i : Channel) (en : Bool) (s : State) : (waveStep i en s).ctr = s.ctr := by
  unfold waveStep; split <;> rfl
@[simp] theorem waveStep_due (i : Channel) (en : Bool) (s : State) : (waveStep i en s).due = s.due := by
  unfold waveStep; split <;> rfl
@[simp] theorem waveStep_audioLevel (i : Channel) (en : Bool) (s : State) : (waveStep i en s).audioLevel = s.audioLevel := by
  unfold waveStep; split <;> rfl
@[simp] theorem waveStep_out (i : Channel) (en : Bool) (s : State) : (waveStep i en s).out = s.out := by
  unfold waveStep; split <;> rfl
@[simp] theorem waveStep_fb (i : Channel) (en : Bool) (s : State) : (waveStep i en s).fb = s.fb := by
  unfold waveStep; split <;> rfl
@[simp] theorem waveStep_overrun (i : Channel) (en : Bool) (s : State) : (waveStep i en s).overrun = s.overrun := by
  unfold waveStep; split <;> rfl
@[simp] theorem waveStep_mem (i : Channel) (en : Bool) (s : State) : (waveStep i en s).mem = s.mem := by
  unfold waveStep; split <;> rfl
@[simp] theorem waveStep_stim (i : Channel) (en : Bool) (s : State) : (waveStep i en s).stim = s.stim := by
  unfold waveStep; split <;> rfl
@[simp] theorem waveStep_reply (i : Channel) (en : Bool) (s : State) : (waveStep i en s).reply = s.reply := by
  unfold waveStep; split <;> rfl

/-! ## channelStep -/

@[simp] theorem channelStep_regs (cfg : Config) (s : State) (i : Channel) : (channelStep cfg s i).regs = s.regs := by
  unfold channelStep; split <;> [split; skip] <;> simp
@[simp] theorem channelStep_mode (cfg : Config) (s : State) (i : Channel) : (channelStep cfg s i).mode = s.mode := by
  unfold channelStep; split <;> [split; skip] <;> simp
@[simp] theorem channelStep_hc (cfg : Config) (s : State) (i : Channel) : (channelStep cfg s i).hc = s.hc := by
  unfold channelStep; split <;> [split; skip] <;> simp
@[simp] theorem channelStep_vc (cfg : Config) (s : State) (i : Channel) : (channelStep cfg s i).vc = s.vc := by
  unfold channelStep; split <;> [split; skip] <;> simp
@[simp] theorem channelStep_lineParity (cfg : Config) (s : State) (i : Channel) : (channelStep cfg s i).lineParity = s.lineParity := by
  unfold channelStep; split <;> [split; skip] <;> simp
@[simp] theorem channelStep_field (cfg : Config) (s : State) (i : Channel) : (channelStep cfg s i).field = s.field := by
  unfold channelStep; split <;> [split; skip] <;> simp
@[simp] theorem channelStep_fstate (cfg : Config) (s : State) (i : Channel) : (channelStep cfg s i).fstate = s.fstate := by
  unfold channelStep; split <;> [split; skip] <;> simp
@[simp] theorem channelStep_hcc (cfg : Config) (s : State) (i : Channel) : (channelStep cfg s i).hcc = s.hcc := by
  unfold channelStep; split <;> [split; skip] <;> simp
@[simp] theorem channelStep_vcc (cfg : Config) (s : State) (i : Channel) : (channelStep cfg s i).vcc = s.vcc := by
  unfold channelStep; split <;> [split; skip] <;> simp
@[simp] theorem channelStep_cdc (cfg : Config) (s : State) (i : Channel) : (channelStep cfg s i).cdc = s.cdc := by
  unfold channelStep; split <;> [split; skip] <;> simp
@[simp] theorem channelStep_vmc (cfg : Config) (s : State) (i : Channel) : (channelStep cfg s i).vmc = s.vmc := by
  unfold channelStep; split <;> [split; skip] <;> simp
@[simp] theorem channelStep_vmcl (cfg : Config) (s : State) (i : Channel) : (channelStep cfg s i).vmcl = s.vmcl := by
  unfold channelStep; split <;> [split; skip] <;> simp
@[simp] theorem channelStep_code (cfg : Config) (s : State) (i : Channel) : (channelStep cfg s i).code = s.code := by
  unfold channelStep; split <;> [split; skip] <;> simp
@[simp] theorem channelStep_colr (cfg : Config) (s : State) (i : Channel) : (channelStep cfg s i).colr = s.colr := by
  unfold channelStep; split <;> [split; skip] <;> simp
@[simp] theorem channelStep_pipe (cfg : Config) (s : State) (i : Channel) : (channelStep cfg s i).pipe = s.pipe := by
  unfold channelStep; split <;> [split; skip] <;> simp
@[simp] theorem channelStep_fbcol (cfg : Config) (s : State) (i : Channel) : (channelStep cfg s i).fbcol = s.fbcol := by
  unfold channelStep; split <;> [split; skip] <;> simp
@[simp] theorem channelStep_ap (cfg : Config) (s : State) (i : Channel) : (channelStep cfg s i).ap = s.ap := by
  unfold channelStep; split <;> [split; skip] <;> simp
@[simp] theorem channelStep_audioLevel (cfg : Config) (s : State) (i : Channel) : (channelStep cfg s i).audioLevel = s.audioLevel := by
  unfold channelStep; split <;> [split; skip] <;> simp
@[simp] theorem channelStep_out (cfg : Config) (s : State) (i : Channel) : (channelStep cfg s i).out = s.out := by
  unfold channelStep; split <;> [split; skip] <;> simp
@[simp] theorem channelStep_fb (cfg : Config) (s : State) (i : Channel) : (channelStep cfg s i).fb = s.fb := by
  unfold channelStep; split <;> [split; skip] <;> simp
@[simp] theorem channelStep_overrun (cfg : Config) (s : State) (i : Channel) : (channelStep cfg s i).overrun = s.overrun := by
  unfold channelStep; split <;> [split; skip] <;> simp
@[simp] theorem channelStep_mem (cfg : Config) (s : State) (i : Channel) : (channelStep cfg s i).mem = s.mem := by
  unfold channelStep; split <;> [split; skip] <;> simp
@[simp] theorem channelStep_stim (cfg : Config) (s : State) (i : Channel) : (channelStep cfg s i).stim = s.stim := by
  unfold channelStep; split <;> [split; skip] <;> simp
@[simp] theorem channelStep_reply (cfg : Config) (s : State) (i : Channel) : (channelStep cfg s i).reply = s.reply := by
  unfold channelStep; split <;> [split; skip] <;> simp

/-! ## audioTick -/

@[simp] theorem audioTick_regs (cfg : Config) (s : State) : (audioTick cfg s).regs = s.regs := by
  simp [audioTick, mixDown, advancePrescaler, channels]
@[simp] theorem audioTick_mode (cfg : Config) (s : State) : (audioTick cfg s).mode = s.mode := by
  simp [audioTick, mixDown, advancePrescaler, channels]
@[simp] theorem audioTick_hc (cfg : Config) (s : State) : (audioTick cfg s).hc = s.hc := by
  simp [audioTick, mixDown, advancePrescaler, channels]
@[simp] theorem audioTick_vc (cfg : Config) (s : State) : (audioTick cfg s).vc = s.vc := by
  simp [audioTick, mixDown, advancePrescaler, channels]
@[simp] theorem audioTick_lineParity (cfg : Config) (s : State) : (audioTick cfg s).lineParity = s.lineParity := by
  simp [audioTick, mixDown, advancePrescaler, channels]
@[simp] theorem audioTick_field (cfg : Config) (s : State) : (audioTick cfg s).field = s.field := by
  simp [audioTick, mixDown, advancePrescaler, channels]
@[simp] theorem audioTick_fstate (cfg : Config) (s : State) : (audioTick cfg s).fstate = s.fstate := by
  simp [audioTick, mixDown, advancePrescaler, channels]
@[simp] theorem audioTick_hcc (cfg : Config) (s : State) : (audioTick cfg s).hcc = s.hcc := by
  simp [audioTick, mixDown, advancePrescaler, channels]
@[simp] theorem audioTick_vcc (cfg : Config) (s : State) : (audioTick cfg s).vcc = s.vcc := by
  simp [audioTick, mixDown, advancePrescaler, channels]
@[simp] theorem audioTick_cdc (cfg : Config) (s : State) : (audioTick cfg s).cdc = s.cdc := by
  simp [audioTick, mixDown, advancePrescaler, channels]
@[simp] theorem audioTick_vmc (cfg : Config) (s : State) : (audioTick cfg s).vmc = s.vmc := by
  simp [audioTick, mixDown, advancePrescaler, channels]
@[simp] theorem audioTick_vmcl (cfg : Config) (s : State) : (audioTick cfg s).vmcl = s.vmcl := by
  simp [audioTick, mixDown, advancePrescaler, channels]
@[simp] theorem audioTick_code (cfg : Config) (s : State) : (audioTick cfg s).code = s.code := by
  simp [audioTick, mixDown, advancePrescaler, channels]
@[simp] theorem audioTick_colr (cfg : Config) (s : State) : (audioTick cfg s).colr = s.colr := by
  simp [audioTick, mixDown, advancePrescaler, channels]
@[simp] theorem audioTick_pipe (cfg : Config) (s : State) : (audioTick cfg s).pipe = s.pipe := by
  simp [audioTick, mixDown, advancePrescaler, channels]
@[simp] theorem audioTick_fbcol (cfg : Config) (s : State) : (audioTick cfg s).fbcol = s.fbcol := by
  simp [audioTick, mixDown, advancePrescaler, channels]
@[simp] theorem audioTick_out (cfg : Config) (s : State) : (audioTick cfg s).out = s.out := by
  simp [audioTick, mixDown, advancePrescaler, channels]
@[simp] theorem audioTick_fb (cfg : Config) (s : State) : (audioTick cfg s).fb = s.fb := by
  simp [audioTick, mixDown, advancePrescaler, channels]
@[simp] theorem audioTick_overrun (cfg : Config) (s : State) : (audioTick cfg s).overrun = s.overrun := by
  simp [audioTick, mixDown, advancePrescaler, channels]
@[simp] theorem audioTick_mem (cfg : Config) (s : State) : (audioTick cfg s).mem = s.mem := by
  simp [audioTick, mixDown, advancePrescaler, channels]
@[simp] theorem audioTick_stim (cfg : Config) (s : State) : (audioTick cfg s).stim = s.stim := by
  simp [audioTick, mixDown, advancePrescaler, channels]
@[simp] theorem audioTick_reply (cfg : Config) (s : State) : (audioTick cfg s).reply = s.reply := by
  simp [audioTick, mixDown, advancePrescaler, channels]

/-! ## rasterPhase -/

@[simp] theorem rasterPhase_mode (cfg : Config) (hc0 : BitVec 7) (s : State) : (rasterPhase cfg hc0 s).mode = s.mode := by
  unfold rasterPhase; split <;> rfl
@[simp] theorem rasterPhase_hc (cfg : Config) (hc0 : BitVec 7) (s : State) : (rasterPhase cfg hc0 s).hc = s.hc := by
  unfold rasterPhase; split <;> rfl
@[simp] theorem rasterPhase_vc (cfg : Config) (hc0 : BitVec 7) (s : State) : (rasterPhase cfg hc0 s).vc = s.vc := by
  unfold rasterPhase; split <;> rfl
@[simp] theorem rasterPhase_lineParity (cfg : Config) (hc0 : BitVec 7) (s : State) : (rasterPhase cfg hc0 s).lineParity = s.lineParity := by
  unfold rasterPhase; split <;> rfl
@[simp] theorem rasterPhase_field (cfg : Config) (hc0 : BitVec 7) (s : State) : (rasterPhase cfg hc0 s).field = s.field := by
  unfold rasterPhase; split <;> rfl
@[simp] theorem rasterPhase_fstate (cfg : Config) (hc0 : BitVec 7) (s : State) : (rasterPhase cfg hc0 s).fstate = s.fstate := by
  unfold rasterPhase; split <;> rfl
@[simp] theorem rasterPhase_hcc (cfg : Config) (hc0 : BitVec 7) (s : State) : (rasterPhase cfg hc0 s).hcc = s.hcc := by
  unfold rasterPhase; split <;> rfl
@[simp] theorem rasterPhase_vcc (cfg : Config) (hc0 : BitVec 7) (s : State) : (rasterPhase cfg hc0 s).vcc = s.vcc := by
  unfold rasterPhase; split <;> rfl
@[simp] theorem rasterPhase_cdc (cfg : Config) (hc0 : BitVec 7) (s : State) : (rasterPhase cfg hc0 s).cdc = s.cdc := by
  unfold rasterPhase; split <;> rfl
@[simp] theorem rasterPhase_vmc (cfg : Config) (hc0 : BitVec 7) (s : State) : (rasterPhase cfg hc0 s).vmc = s.vmc := by
  unfold rasterPhase; split <;> rfl
@[simp] theorem rasterPhase_vmcl (cfg : Config) (hc0 : BitVec 7) (s : State) : (rasterPhase cfg hc0 s).vmcl = s.vmcl := by
  unfold rasterPhase; split <;> rfl
@[simp] theorem rasterPhase_code (cfg : Config) (hc0 : BitVec 7) (s : State) : (rasterPhase cfg hc0 s).code = s.code := by
  unfold rasterPhase; split <;> rfl
@[simp] theorem rasterPhase_colr (cfg : Config) (hc0 : BitVec 7) (s : State) : (rasterPhase cfg hc0 s).colr = s.colr := by
  unfold rasterPhase; split <;> rfl
@[simp] theorem rasterPhase_pipe (cfg : Config) (hc0 : BitVec 7) (s : State) : (rasterPhase cfg hc0 s).pipe = s.pipe := by
  unfold rasterPhase; split <;> rfl
@[simp] theorem rasterPhase_fbcol (cfg : Config) (hc0 : BitVec 7) (s : State) : (rasterPhase cfg hc0 s).fbcol = s.fbcol := by
  unfold rasterPhase; split <;> rfl
@[simp] theorem rasterPhase_ap (cfg : Config) (hc0 : BitVec 7) (s : State) : (rasterPhase cfg hc0 s).ap = s.ap := by
  unfold rasterPhase; split <;> rfl
@[simp] theorem rasterPhase_ctr (cfg : Config) (hc0 : BitVec 7) (s : State) : (rasterPhase cfg hc0 s).ctr = s.ctr := by
  unfold rasterPhase; split <;> rfl
@[simp] theorem rasterPhase_sr (cfg : Config) (hc0 : BitVec 7) (s : State) : (rasterPhase cfg hc0 s).sr = s.sr := by
  unfold rasterPhase; split <;> rfl
@[simp] theorem rasterPhase_lfsr (cfg : Config) (hc0 : BitVec 7) (s : State) : (rasterPhase cfg hc0 s).lfsr = s.lfsr := by
  unfold rasterPhase; split <;> rfl
@[simp] theorem rasterPhase_due (cfg : Config) (hc0 : BitVec 7) (s : State) : (rasterPhase cfg hc0 s).due = s.due := by
  unfold rasterPhase; split <;> rfl
@[simp] theorem rasterPhase_audioLevel (cfg : Config) (hc0 : BitVec 7) (s : State) : (rasterPhase cfg hc0 s).audioLevel = s.audioLevel := by
  unfold rasterPhase; split <;> rfl
@[simp] theorem rasterPhase_out (cfg : Config) (hc0 : BitVec 7) (s : State) : (rasterPhase cfg hc0 s).out = s.out := by
  unfold rasterPhase; split <;> rfl
@[simp] theorem rasterPhase_fb (cfg : Config) (hc0 : BitVec 7) (s : State) : (rasterPhase cfg hc0 s).fb = s.fb := by
  unfold rasterPhase; split <;> rfl
@[simp] theorem rasterPhase_overrun (cfg : Config) (hc0 : BitVec 7) (s : State) : (rasterPhase cfg hc0 s).overrun = s.overrun := by
  unfold rasterPhase; split <;> rfl
@[simp] theorem rasterPhase_mem (cfg : Config) (hc0 : BitVec 7) (s : State) : (rasterPhase cfg hc0 s).mem = s.mem := by
  unfold rasterPhase; split <;> rfl
@[simp] theorem rasterPhase_stim (cfg : Config) (hc0 : BitVec 7) (s : State) : (rasterPhase cfg hc0 s).stim = s.stim := by
  unfold rasterPhase; split <;> rfl
@[simp] theorem rasterPhase_reply (cfg : Config) (hc0 : BitVec 7) (s : State) : (rasterPhase cfg hc0 s).reply = s.reply := by
  unfold rasterPhase; split <;> rfl

/-! ## verticalIncrement -/

@[simp] theorem verticalIncrement_regs (s : State) : (verticalIncrement s).regs = s.regs := by
  unfold verticalIncrement; split <;> rfl
@[simp] theorem verticalIncrement_mode (s : State) : (verticalIncrement s).mode = s.mode := by
  unfold verticalIncrement; split <;> rfl
@[simp] theorem verticalIncrement_hc (s : State) : (verticalIncrement s).hc = s.hc := by
  unfold verticalIncrement; split <;> rfl
@[simp] theorem verticalIncrement_lineParity (s : State) : (verticalIncrement s).lineParity = s.lineParity := by
  unfold verticalIncrement; split <;> rfl
@[simp] theorem verticalIncrement_hcc (s : State) : (verticalIncrement s).hcc = s.hcc := by
  unfold verticalIncrement; split <;> rfl
@[simp] theorem verticalIncrement_vcc (s : State) : (verticalIncrement s).vcc = s.vcc := by
  unfold verticalIncrement; split <;> rfl
@[simp] theorem verticalIncrement_cdc (s : State) : (verticalIncrement s).cdc = s.cdc := by
  unfold verticalIncrement; split <;> rfl
@[simp] theorem verticalIncrement_vmc (s : State) : (verticalIncrement s).vmc = s.vmc := by
  unfold verticalIncrement; split <;> rfl
@[simp] theorem verticalIncrement_vmcl (s : State) : (verticalIncrement s).vmcl = s.vmcl := by
  unfold verticalIncrement; split <;> rfl
@[simp] theorem verticalIncrement_code (s : State) : (verticalIncrement s).code = s.code := by
  unfold verticalIncrement; split <;> rfl
@[simp] theorem verticalIncrement_colr (s : State) : (verticalIncrement s).colr = s.colr := by
  unfold verticalIncrement; split <;> rfl
@[simp] theorem verticalIncrement_pipe (s : State) : (verticalIncrement s).pipe = s.pipe := by
  unfold verticalIncrement; split <;> rfl
@[simp] theorem verticalIncrement_fbcol (s : State) : (verticalIncrement s).fbcol = s.fbcol := by
  unfold verticalIncrement; split <;> rfl
@[simp] theorem verticalIncrement_ap (s : State) : (verticalIncrement s).ap = s.ap := by
  unfold verticalIncrement; split <;> rfl
@[simp] theorem verticalIncrement_ctr (s : State) : (verticalIncrement s).ctr = s.ctr := by
  unfold verticalIncrement; split <;> rfl
@[simp] theorem verticalIncrement_sr (s : State) : (verticalIncrement s).sr = s.sr := by
  unfold verticalIncrement; split <;> rfl
@[simp] theorem verticalIncrement_lfsr (s : State) : (verticalIncrement s).lfsr = s.lfsr := by
  unfold verticalIncrement; split <;> rfl
@[simp] theorem verticalIncrement_due (s : State) : (verticalIncrement s).due = s.due := by
  unfold verticalIncrement; split <;> rfl
@[simp] theorem verticalIncrement_audioLevel (s : State) : (verticalIncrement s).audioLevel = s.audioLevel := by
  unfold verticalIncrement; split <;> rfl
@[simp] theorem verticalIncrement_out (s : State) : (verticalIncrement s).out = s.out := by
  unfold verticalIncrement; split <;> rfl
@[simp] theorem verticalIncrement_fb (s : State) : (verticalIncrement s).fb = s.fb := by
  unfold verticalIncrement; split <;> rfl
@[simp] theorem verticalIncrement_overrun (s : State) : (verticalIncrement s).overrun = s.overrun := by
  unfold verticalIncrement; split <;> rfl
@[simp] theorem verticalIncrement_mem (s : State) : (verticalIncrement s).mem = s.mem := by
  unfold verticalIncrement; split <;> rfl
@[simp] theorem verticalIncrement_stim (s : State) : (verticalIncrement s).stim = s.stim := by
  unfold verticalIncrement; split <;> rfl
@[simp] theorem verticalIncrement_reply (s : State) : (verticalIncrement s).reply = s.reply := by
  unfold verticalIncrement; split <;> rfl

/-! ## verticalPhase -/

@[simp] theorem verticalPhase_regs (cfg : Config) (hc0 : BitVec 7) (s : State) : (verticalPhase cfg hc0 s).regs = s.regs := by
  unfold verticalPhase; split <;> simp
@[simp] theorem verticalPhase_mode (cfg : Config) (hc0 : BitVec 7) (s : State) : (verticalPhase cfg hc0 s).mode = s.mode := by
  unfold verticalPhase; split <;> simp
@[simp] theorem verticalPhase_hc (cfg : Config) (hc0 : BitVec 7) (s : State) : (verticalPhase cfg hc0 s).hc = s.hc := by
  unfold verticalPhase; split <;> simp
@[simp] theorem verticalPhase_lineParity (cfg : Config) (hc0 : BitVec 7) (s : State) : (verticalPhase cfg hc0 s).lineParity = s.lineParity := by
  unfold verticalPhase; split <;> simp
@[simp] theorem verticalPhase_hcc (cfg : Config) (hc0 : BitVec 7) (s : State) : (verticalPhase cfg hc0 s).hcc = s.hcc := by
  unfold verticalPhase; split <;> simp
@[simp] theorem verticalPhase_vcc (cfg : Config) (hc0 : BitVec 7) (s : State) : (verticalPhase cfg hc0 s).vcc = s.vcc := by
  unfold verticalPhase; split <;> simp
@[simp] theorem verticalPhase_cdc (cfg : Config) (hc0 : BitVec 7) (s : State) : (verticalPhase cfg hc0 s).cdc = s.cdc := by
  unfold verticalPhase; split <;> simp
@[simp] theorem verticalPhase_vmc (cfg : Config) (hc0 : BitVec 7) (s : State) : (verticalPhase cfg hc0 s).vmc = s.vmc := by
  unfold verticalPhase; split <;> simp
@[simp] theorem verticalPhase_vmcl (cfg : Config) (hc0 : BitVec 7) (s : State) : (verticalPhase cfg hc0 s).vmcl = s.vmcl := by
  unfold verticalPhase; split <;> simp
@[simp] theorem verticalPhase_code (cfg : Config) (hc0 : BitVec 7) (s : State) : (verticalPhase cfg hc0 s).code = s.code := by
  unfold verticalPhase; split <;> simp
@[simp] theorem verticalPhase_colr (cfg : Config) (hc0 : BitVec 7) (s : State) : (verticalPhase cfg hc0 s).colr = s.colr := by
  unfold verticalPhase; split <;> simp
@[simp] theorem verticalPhase_pipe (cfg : Config) (hc0 : BitVec 7) (s : State) : (verticalPhase cfg hc0 s).pipe = s.pipe := by
  unfold verticalPhase; split <;> simp
@[simp] theorem verticalPhase_fbcol (cfg : Config) (hc0 : BitVec 7) (s : State) : (verticalPhase cfg hc0 s).fbcol = s.fbcol := by
  unfold verticalPhase; split <;> simp
@[simp] theorem verticalPhase_ap (cfg : Config) (hc0 : BitVec 7) (s : State) : (verticalPhase cfg hc0 s).ap = s.ap := by
  unfold verticalPhase; split <;> simp
@[simp] theorem verticalPhase_ctr (cfg : Config) (hc0 : BitVec 7) (s : State) : (verticalPhase cfg hc0 s).ctr = s.ctr := by
  unfold verticalPhase; split <;> simp
@[simp] theorem verticalPhase_sr (cfg : Config) (hc0 : BitVec 7) (s : State) : (verticalPhase cfg hc0 s).sr = s.sr := by
  unfold verticalPhase; split <;> simp
@[simp] theorem verticalPhase_lfsr (cfg : Config) (hc0 : BitVec 7) (s : State) : (verticalPhase cfg hc0 s).lfsr = s.lfsr := by
  unfold verticalPhase; split <;> simp
@[simp] theorem verticalPhase_due (cfg : Config) (hc0 : BitVec 7) (s : State) : (verticalPhase cfg hc0 s).due = s.due := by
  unfold verticalPhase; split <;> simp
@[simp] theorem verticalPhase_audioLevel (cfg : Config) (hc0 : BitVec 7) (s : State) : (verticalPhase cfg hc0 s).audioLevel = s.audioLevel := by
  unfold verticalPhase; split <;> simp
@[simp] theorem verticalPhase_out (cfg : Config) (hc0 : BitVec 7) (s : State) : (verticalPhase cfg hc0 s).out = s.out := by
  unfold verticalPhase; split <;> simp
@[simp] theorem verticalPhase_fb (cfg : Config) (hc0 : BitVec 7) (s : State) : (verticalPhase cfg hc0 s).fb = s.fb := by
  unfold verticalPhase; split <;> simp
@[simp] theorem verticalPhase_overrun (cfg : Config) (hc0 : BitVec 7) (s : State) : (verticalPhase cfg hc0 s).overrun = s.overrun := by
  unfold verticalPhase; split <;> simp
@[simp] theorem verticalPhase_mem (cfg : Config) (hc0 : BitVec 7) (s : State) : (verticalPhase cfg hc0 s).mem = s.mem := by
  unfold verticalPhase; split <;> simp
@[simp] theorem verticalPhase_stim (cfg : Config) (hc0 : BitVec 7) (s : State) : (verticalPhase cfg hc0 s).stim = s.stim := by
  unfold verticalPhase; split <;> simp
@[simp] theorem verticalPhase_reply (cfg : Config) (hc0 : BitVec 7) (s : State) : (verticalPhase cfg hc0 s).reply = s.reply := by
  unfold verticalPhase; split <;> simp

/-! ## rowAccounting -/

@[simp] theorem rowAccounting_regs (s : State) : (rowAccounting s).regs = s.regs := by
  unfold rowAccounting; split <;> [split; skip] <;> rfl
@[simp] theorem rowAccounting_mode (s : State) : (rowAccounting s).mode = s.mode := by
  unfold rowAccounting; split <;> [split; skip] <;> rfl
@[simp] theorem rowAccounting_hc (s : State) : (rowAccounting s).hc = s.hc := by
  unfold rowAccounting; split <;> [split; skip] <;> rfl
@[simp] theorem rowAccounting_vc (s : State) : (rowAccounting s).vc = s.vc := by
  unfold rowAccounting; split <;> [split; skip] <;> rfl
@[simp] theorem rowAccounting_lineParity (s : State) : (rowAccounting s).lineParity = s.lineParity := by
  unfold rowAccounting; split <;> [split; skip] <;> rfl
@[simp] theorem rowAccounting_field (s : State) : (rowAccounting s).field = s.field := by
  unfold rowAccounting; split <;> [split; skip] <;> rfl
@[simp] theorem rowAccounting_hcc (s : State) : (rowAccounting s).hcc = s.hcc := by
  unfold rowAccounting; split <;> [split; skip] <;> rfl
@[simp] theorem rowAccounting_code (s : State) : (rowAccounting s).code = s.code := by
  unfold rowAccounting; split <;> [split; skip] <;> rfl
@[simp] theorem rowAccounting_colr (s : State) : (rowAccounting s).colr = s.colr := by
  unfold rowAccounting; split <;> [split; skip] <;> rfl
@[simp] theorem rowAccounting_pipe (s : State) : (rowAccounting s).pipe = s.pipe := by
  unfold rowAccounting; split <;> [split; skip] <;> rfl
@[simp] theorem rowAccounting_fbcol (s : State) : (rowAccounting s).fbcol = s.fbcol := by
  unfold rowAccounting; split <;> [split; skip] <;> rfl
@[simp] theorem rowAccounting_ap (s : State) : (rowAccounting s).ap = s.ap := by
  unfold rowAccounting; split <;> [split; skip] <;> rfl
@[simp] theorem rowAccounting_ctr (s : State) : (rowAccounting s).ctr = s.ctr := by
  unfold rowAccounting; split <;> [split; skip] <;> rfl
@[simp] theorem rowAccounting_sr (s : State) : (rowAccounting s).sr = s.sr := by
  unfold rowAccounting; split <;> [split; skip] <;> rfl
@[simp] theorem rowAccounting_lfsr (s : State) : (rowAccounting s).lfsr = s.lfsr := by
  unfold rowAccounting; split <;> [split; skip] <;> rfl
@[simp] theorem rowAccounting_due (s : State) : (rowAccounting s).due = s.due := by
  unfold rowAccounting; split <;> [split; skip] <;> rfl
@[simp] theorem rowAccounting_audioLevel (s : State) : (rowAccounting s).audioLevel = s.audioLevel := by
  unfold rowAccounting; split <;> [split; skip] <;> rfl
@[simp] theorem rowAccounting_out (s : State) : (rowAccounting s).out = s.out := by
  unfold rowAccounting; split <;> [split; skip] <;> rfl
@[simp] theorem rowAccounting_fb (s : State) : (rowAccounting s).fb = s.fb := by
  unfold rowAccounting; split <;> [split; skip] <;> rfl
@[simp] theorem rowAccounting_overrun (s : State) : (rowAccounting s).overrun = s.overrun := by
  unfold rowAccounting; split <;> [split; skip] <;> rfl
@[simp] theorem rowAccounting_mem (s : State) : (rowAccounting s).mem = s.mem := by
  unfold rowAccounting; split <;> [split; skip] <;> rfl
@[simp] theorem rowAccounting_stim (s : State) : (rowAccounting s).stim = s.stim := by
  unfold rowAccounting; split <;> [split; skip] <;> rfl
@[simp] theorem rowAccounting_reply (s : State) : (rowAccounting s).reply = s.reply := by
  unfold rowAccounting; split <;> [split; skip] <;> rfl

/-! ## newLine -/

@[simp] theorem newLine_regs (s : State) : (newLine s).regs = s.regs := by
  simp [newLine, lineReload]
@[simp] theorem newLine_mode (s : State) : (newLine s).mode = s.mode := by
  simp [newLine, lineReload]
@[simp] theorem newLine_hc (s : State) : (newLine s).hc = s.hc := by
  simp [newLine, lineReload]
@[simp] theorem newLine_vc (s : State) : (newLine s).vc = s.vc := by
  simp [newLine, lineReload]
@[simp] theorem newLine_field (s : State) : (newLine s).field = s.field := by
  simp [newLine, lineReload]
@[simp] theorem newLine_code (s : State) : (newLine s).code = s.code := by
  simp [newLine, lineReload]
@[simp] theorem newLine_colr (s : State) : (newLine s).colr = s.colr := by
  simp [newLine, lineReload]
@[simp] theorem newLine_pipe (s : State) : (newLine s).pipe = s.pipe := by
  simp [newLine, lineReload]
@[simp] theorem newLine_ap (s : State) : (newLine s).ap = s.ap := by
  simp [newLine, lineReload]
@[simp] theorem newLine_ctr (s : State) : (newLine s).ctr = s.ctr := by
  simp [newLine, lineReload]
@[simp] theorem newLine_sr (s : State) : (newLine s).sr = s.sr := by
  simp [newLine, lineReload]
@[simp] theorem newLine_lfsr (s : State) : (newLine s).lfsr = s.lfsr := by
  simp [newLine, lineReload]
@[simp] theorem newLine_due (s : State) : (newLine s).due = s.due := by
  simp [newLine, lineReload]
@[simp] theorem newLine_audioLevel (s : State) : (newLine s).audioLevel = s.audioLevel := by
  simp [newLine, lineReload]
@[simp] theorem newLine_out (s : State) : (newLine s).out = s.out := by
  simp [newLine, lineReload]
@[simp] theorem newLine_fb (s : State) : (newLine s).fb = s.fb := by
  simp [newLine, lineReload]
@[simp] theorem newLine_overrun (s : State) : (newLine s).overrun = s.overrun := by
  simp [newLine, lineReload]
@[simp] theorem newLine_mem (s : State) : (newLine s).mem = s.mem := by
  simp [newLine, lineReload]
@[simp] theorem newLine_stim (s : State) : (newLine s).stim = s.stim := by
  simp [newLine, lineReload]
@[simp] theorem newLine_reply (s : State) : (newLine s).reply = s.reply := by
  simp [newLine, lineReload]

/-! ## linePhase -/

@[simp] theorem linePhase_regs (hc0 : BitVec 7) (s : State) : (linePhase hc0 s).regs = s.regs := by
  unfold linePhase; split <;> simp
@[simp] theorem linePhase_mode (hc0 : BitVec 7) (s : State) : (linePhase hc0 s).mode = s.mode := by
  unfold linePhase; split <;> simp
@[simp] theorem linePhase_vc (hc0 : BitVec 7) (s : State) : (linePhase hc0 s).vc = s.vc := by
  unfold linePhase; split <;> simp
@[simp] theorem linePhase_field (hc0 : BitVec 7) (s : State) : (linePhase hc0 s).field = s.field := by
  unfold linePhase; split <;> simp
@[simp] theorem linePhase_code (hc0 : BitVec 7) (s : State) : (linePhase hc0 s).code = s.code := by
  unfold linePhase; split <;> simp
@[simp] theorem linePhase_colr (hc0 : BitVec 7) (s : State) : (linePhase hc0 s).colr = s.colr := by
  unfold linePhase; split <;> simp
@[simp] theorem linePhase_pipe (hc0 : BitVec 7) (s : State) : (linePhase hc0 s).pipe = s.pipe := by
  unfold linePhase; split <;> simp
@[simp] theorem linePhase_ap (hc0 : BitVec 7) (s : State) : (linePhase hc0 s).ap = s.ap := by
  unfold linePhase; split <;> simp
@[simp] theorem linePhase_ctr (hc0 : BitVec 7) (s : State) : (linePhase hc0 s).ctr = s.ctr := by
  unfold linePhase; split <;> simp
@[simp] theorem linePhase_sr (hc0 : BitVec 7) (s : State) : (linePhase hc0 s).sr = s.sr := by
  unfold linePhase; split <;> simp
@[simp] theorem linePhase_lfsr (hc0 : BitVec 7) (s : State) : (linePhase hc0 s).lfsr = s.lfsr := by
  unfold linePhase; split <;> simp
@[simp] theorem linePhase_due (hc0 : BitVec 7) (s : State) : (linePhase hc0 s).due = s.due := by
  unfold linePhase; split <;> simp
@[simp] theorem linePhase_audioLevel (hc0 : BitVec 7) (s : State) : (linePhase hc0 s).audioLevel = s.audioLevel := by
  unfold linePhase; split <;> simp
@[simp] theorem linePhase_out (hc0 : BitVec 7) (s : State) : (linePhase hc0 s).out = s.out := by
  unfold linePhase; split <;> simp
@[simp] theorem linePhase_fb (hc0 : BitVec 7) (s : State) : (linePhase hc0 s).fb = s.fb := by
  unfold linePhase; split <;> simp
@[simp] theorem linePhase_overrun (hc0 : BitVec 7) (s : State) : (linePhase hc0 s).overrun = s.overrun := by
  unfold linePhase; split <;> simp
@[simp] theorem linePhase_mem (hc0 : BitVec 7) (s : State) : (linePhase hc0 s).mem = s.mem := by
  unfold linePhase; split <;> simp
@[simp] theorem linePhase_stim (hc0 : BitVec 7) (s : State) : (linePhase hc0 s).stim = s.stim := by
  unfold linePhase; split <;> simp
@[simp] theorem linePhase_reply (hc0 : BitVec 7) (s : State) : (linePhase hc0 s).reply = s.reply := by
  unfold linePhase; split <;> simp

/-! ## What the passes read -/

/-- The readings of the mode are those of any state with the same mode. -/
theorem State.standard_congr {s t : State} (h : t.mode = s.mode) : t.standard = s.standard := by
  simp [State.standard, h]

/-- The readings of the bank are those of any state with the same bank. -/
theorem State.reg_congr {s t : State} (h : t.regs = s.regs) (i : RegIx) : t.reg i = s.reg i := by
  simp [State.reg, h]

/-! ## A whole TICK -/

@[simp] theorem cyclePasses_regs (cfg : Config) (s : State) : (cyclePasses cfg s).regs = s.regs := by
  simp [cyclePasses]
@[simp] theorem cyclePasses_mode (cfg : Config) (s : State) : (cyclePasses cfg s).mode = s.mode := by
  simp [cyclePasses]
@[simp] theorem cyclePasses_hc (cfg : Config) (s : State) : (cyclePasses cfg s).hc = s.hc := by
  simp [cyclePasses]
@[simp] theorem cyclePasses_vc (cfg : Config) (s : State) : (cyclePasses cfg s).vc = s.vc := by
  simp [cyclePasses]
@[simp] theorem cyclePasses_lineParity (cfg : Config) (s : State) : (cyclePasses cfg s).lineParity = s.lineParity := by
  simp [cyclePasses]
@[simp] theorem cyclePasses_field (cfg : Config) (s : State) : (cyclePasses cfg s).field = s.field := by
  simp [cyclePasses]
@[simp] theorem cyclePasses_overrun (cfg : Config) (s : State) : (cyclePasses cfg s).overrun = s.overrun := by
  simp [cyclePasses]
@[simp] theorem cyclePasses_mem (cfg : Config) (s : State) : (cyclePasses cfg s).mem = s.mem := by
  simp [cyclePasses]
@[simp] theorem cyclePasses_stim (cfg : Config) (s : State) : (cyclePasses cfg s).stim = s.stim := by
  simp [cyclePasses]
@[simp] theorem cyclePasses_reply (cfg : Config) (s : State) : (cyclePasses cfg s).reply = s.reply := by
  simp [cyclePasses]

@[simp] theorem tick_mode (cfg : Config) (s : State) : (tick cfg s).mode = s.mode := by
  simp [tick, horizontalPass]
@[simp] theorem tick_overrun (cfg : Config) (s : State) : (tick cfg s).overrun = s.overrun := by
  simp [tick, horizontalPass]
@[simp] theorem tick_mem (cfg : Config) (s : State) : (tick cfg s).mem = s.mem := by
  simp [tick, horizontalPass]
@[simp] theorem tick_stim (cfg : Config) (s : State) : (tick cfg s).stim = s.stim := by
  simp [tick, horizontalPass]
@[simp] theorem tick_reply (cfg : Config) (s : State) : (tick cfg s).reply = s.reply := by
  simp [tick, horizontalPass]

@[simp] theorem cyclePasses_standard (cfg : Config) (s : State) : (cyclePasses cfg s).standard = s.standard :=
  State.standard_congr (by simp)

@[simp] theorem rasterPhase_standard (cfg : Config) (hc0 : BitVec 7) (s : State) :
    (rasterPhase cfg hc0 s).standard = s.standard :=
  State.standard_congr (by simp)

@[simp] theorem verticalPhase_standard (cfg : Config) (hc0 : BitVec 7) (s : State) :
    (verticalPhase cfg hc0 s).standard = s.standard :=
  State.standard_congr (by simp)

@[simp] theorem tick_standard (cfg : Config) (s : State) : (tick cfg s).standard = s.standard :=
  State.standard_congr (by simp)

/-- The raster update writes RASTER_LSB and RASTER_HI; every other register keeps its byte (R62, R258). -/
theorem tick_regs (cfg : Config) (s : State) :
    (tick cfg s).regs = (rasterPhase cfg s.hc (cyclePasses cfg s)).regs := by
  simp [tick, horizontalPass]

/-- The horizontal counter's step (R259). -/
theorem tick_hc (cfg : Config) (s : State) :
    (tick cfg s).hc = if s.hc.toNat + 1 = lineCycles s.standard then 0 else s.hc + 1 := by
  simp only [tick, horizontalPass, linePhase, verticalPhase_standard, rasterPhase_standard, cyclePasses_standard]
  split <;> simp

/-- The vertical counter is that of the vertical phase. -/
theorem tick_vc (cfg : Config) (s : State) :
    (tick cfg s).vc = (verticalPhase cfg s.hc (rasterPhase cfg s.hc (cyclePasses cfg s))).vc := by
  simp [tick, horizontalPass]

end Sys2Proof.Machine
end

