-- ==== Sys2Proof/Laws/Audio.lean ====
section
/-! SUPPORT. The laws of the audio step: the outputs' range, the level as an exact integer, the waveform shift, and what
one channel's step does to the other channels. -/

namespace Sys2Proof.Machine

/-- A channel's output is -1, 0 or +1 (R392). -/
theorem channelOut_cases (s : State) (i : Channel) : channelOut s i = 0 ∨ channelOut s i = 1 ∨ channelOut s i = -1 := by
  unfold channelOut; split <;> [split; skip] <;> simp

theorem channelOut_range (s : State) (i : Channel) : -1 ≤ channelOut s i ∧ channelOut s i ≤ 1 := by
  rcases channelOut_cases s i with h | h | h <;> rw [h] <;> decide

/-- The sum lies in -4 to +4 (R393). -/
theorem channelSum_range (s : State) : -4 ≤ channelSum s ∧ channelSum s ≤ 4 := by
  have h0 := channelOut_range s 0
  have h1 := channelOut_range s 1
  have h2 := channelOut_range s 2
  have h3 := channelOut_range s 3
  unfold channelSum; omega

/-- The exact level lies within 60 of the bias (R394). -/
theorem mixLevel_range (cfg : Config) (s : State) :
    (cfg.audioBias : Int) - 60 ≤ mixLevel cfg s ∧ mixLevel cfg s ≤ cfg.audioBias + 60 := by
  have hs := channelSum_range s
  have hv : s.volume.toNat ≤ 15 := by have := s.volume.isLt; omega
  have hv' : (s.volume.toNat : Int) ≤ 15 := by exact_mod_cast hv
  have hv0 : (0 : Int) ≤ s.volume.toNat := Int.natCast_nonneg _
  unfold mixLevel
  constructor <;> nlinarith [hs.1, hs.2]

/-- In a well-formed configuration the 8-bit level is the exact level (R394, R43). -/
theorem mixDown_level (cfg : Config) (h : cfg.WellFormed) (s : State) :
    ((mixDown cfg s).audioLevel.toNat : Int) = mixLevel cfg s := by
  have hr := mixLevel_range cfg s
  have h1 : (60 : Int) ≤ cfg.audioBias := by exact_mod_cast h.bias_ge
  have h2 : (cfg.audioBias : Int) ≤ 127 := by exact_mod_cast h.bias_le
  simp only [mixDown, BitVec.toNat_ofInt]
  omega

/-- The waveform shift with the channel disabled only shifts in zeros (R386). -/
theorem waveShift_disabled (r : Byte) : waveShift r false = r <<< 1 := by
  simp [waveShift]

/-- The new bit of an enabled waveform step is the inverse of the top bit (R386). -/
theorem waveShift_low (r : Byte) (en : Bool) : (waveShift r en).getLsbD 0 = (!r.getLsbD 7 && en) := by
  revert r en; decide

/-- The shift moves every other bit up by one (R386). -/
theorem waveShift_high (r : Byte) (en : Bool) (i : Nat) (h : i < 7) : (waveShift r en).getLsbD (i + 1) = r.getLsbD i := by
  revert r en; interval_cases i <;> decide

@[simp] theorem noiseFeedback_disabled (l : BitVec 16) : noiseFeedback l false = true := rfl

/-- A channel's step leaves the counters of the other channels alone (R380). -/
theorem channelStep_ctr_other (cfg : Config) (s : State) (i j : Channel) (h : j ≠ i) :
    (channelStep cfg s i).ctr[j] = s.ctr[j] := by
  have h' : i.val ≠ j.val := fun e => h (Fin.ext e.symm)
  unfold channelStep; split <;> [split; skip] <;> simp [h']

/-- A channel's step leaves the due flags of the other channels alone (R380). -/
theorem channelStep_due_other (cfg : Config) (s : State) (i j : Channel) (h : j ≠ i) :
    (channelStep cfg s i).due[j] = s.due[j] := by
  have h' : i.val ≠ j.val := fun e => h (Fin.ext e.symm)
  unfold channelStep; split <;> [split; skip] <;> simp [h']

/-- The counter a channel's step writes (R384, R385). -/
theorem channelStep_ctr_same (cfg : Config) (s : State) (i : Channel) :
    (channelStep cfg s i).ctr[i] =
      if clocked cfg s.ap i then
        if s.ctr[i] = cfg.audioTerminal then reloadValue cfg (s.channelFreq i) else s.ctr[i] - 1
      else s.ctr[i] := by
  unfold channelStep; split <;> [split; skip] <;> simp

/-- The due flag of a channel's step: it is set exactly when the waveform steps (R383). -/
theorem channelStep_due_same (cfg : Config) (s : State) (i : Channel) :
    (channelStep cfg s i).due[i] = (clocked cfg s.ap i && decide (s.ctr[i] = cfg.audioTerminal)) := by
  unfold channelStep
  split
  · next h1 =>
    split
    · next h2 => simpa [h1] using h2
    · next h2 => simpa [h1] using h2
  · next h1 => simp [h1]

/-- A channel's step leaves the waveform registers of the other channels alone (R380). -/
theorem channelStep_sr_other (cfg : Config) (s : State) (i j : Channel) (h : j ≠ i) :
    (channelStep cfg s i).sr[j] = s.sr[j] := by
  have h' : i.val ≠ j.val := fun e => h (Fin.ext e.symm)
  unfold channelStep; split <;> [split; skip] <;> simp [waveStep]
  split
  · simp [toneStep, h']
  · unfold noiseStep; split
    · have hi : i.val = 3 := by omega
      have h3 : 3 ≠ j.val := by omega
      simp [h3]
    · simp

/-- A tone channel's waveform register steps exactly when the channel is due (R383, R386). -/
theorem channelStep_sr_tone (cfg : Config) (s : State) (i : Channel) (h : i.val < 3) : (channelStep cfg s i).sr[i] =
    if (channelStep cfg s i).due[i] then waveShift s.sr[i] (s.channelEn i) else s.sr[i] := by
  rw [channelStep_due_same]
  unfold channelStep
  by_cases h1 : clocked cfg s.ap i = true
  · rw [if_pos h1]
    by_cases h2 : s.ctr[i] = cfg.audioTerminal
    · rw [if_pos h2, if_pos (by simpa [h1] using h2)]
      unfold waveStep; rw [if_pos h]; simp [toneStep]
    · rw [if_neg h2, if_neg (by simpa [h1] using h2)]; simp
  · rw [if_neg h1]; simp [h1]

/-- A tone channel's step leaves the LFSR alone (R380). -/
theorem channelStep_lfsr_tone (cfg : Config) (s : State) (i : Channel) (h : i.val < 3) :
    (channelStep cfg s i).lfsr = s.lfsr := by
  unfold channelStep; split <;> [split; skip] <;> simp [waveStep, h]; rfl

/-- The waveform shift as a number (R386). -/
theorem waveShift_toNat (r : Byte) (en : Bool) :
    (waveShift r en).toNat = r.toNat * 2 % 256 + (if r.toNat < 128 ∧ en = true then 1 else 0) := by
  revert r en; decide

end Sys2Proof.Machine
end

