-- ==== Sys2Proof/Laws/Decode.lean ====
section
/-! SUPPORT. The fields of a packed word, a word from its fields, and the row that a register field selects. -/

namespace Sys2Proof

@[simp] theorem opOf_packWord (op r : BitVec 4) (a : MemIx) (d : Byte) : opOf (packWord op r a d) = op := by
  unfold opOf packWord
  apply BitVec.eq_of_getLsbD_eq
  intro i hi
  simp only [BitVec.getLsbD_extractLsb', BitVec.getLsbD_append, hi, decide_true, Bool.true_and]
  have h1 : ¬ (28 + i < 8) := by omega
  have h2 : ¬ (28 + i - 8 < 16) := by omega
  have h3 : ¬ (28 + i - 8 - 16 < 4) := by omega
  simp only [h1, h2, h3, if_false]
  congr 1
  omega

@[simp] theorem rOf_packWord (op r : BitVec 4) (a : MemIx) (d : Byte) : rOf (packWord op r a d) = r := by
  unfold rOf packWord
  apply BitVec.eq_of_getLsbD_eq
  intro i hi
  simp only [BitVec.getLsbD_extractLsb', BitVec.getLsbD_append, hi, decide_true, Bool.true_and]
  have h1 : ¬ (24 + i < 8) := by omega
  have h2 : ¬ (24 + i - 8 < 16) := by omega
  have h3 : 24 + i - 8 - 16 < 4 := by omega
  simp only [h1, h2, h3, if_false, if_true]
  congr 1
  omega

@[simp] theorem aOf_packWord (op r : BitVec 4) (a : MemIx) (d : Byte) : aOf (packWord op r a d) = a := by
  unfold aOf packWord
  apply BitVec.eq_of_getLsbD_eq
  intro i hi
  simp only [BitVec.getLsbD_extractLsb', BitVec.getLsbD_append, hi, decide_true, Bool.true_and]
  have h1 : ¬ (8 + i < 8) := by omega
  have h2 : 8 + i - 8 < 16 := by omega
  simp only [h1, h2, if_false, if_true]
  congr 1
  omega

@[simp] theorem dOf_packWord (op r : BitVec 4) (a : MemIx) (d : Byte) : dOf (packWord op r a d) = d := by
  unfold dOf packWord
  apply BitVec.eq_of_getLsbD_eq
  intro i hi
  simp only [BitVec.getLsbD_extractLsb', BitVec.getLsbD_append, hi, decide_true, Bool.true_and]
  have h1 : 0 + i < 8 := by omega
  simp only [h1, if_true]
  congr 1
  omega

/-- A word is its four fields (R120). -/
theorem packWord_fields (w : Word) : packWord (opOf w) (rOf w) (aOf w) (dOf w) = w := by
  unfold packWord opOf rOf aOf dOf
  apply BitVec.eq_of_getLsbD_eq
  intro i hi
  simp only [BitVec.getLsbD_append, BitVec.getLsbD_extractLsb']
  split
  · next h => simp [h]
  · split
    · next h1 h2 => rw [show 8 + (i - 8) = i by omega]; simp [h2]
    · split
      · next h1 h2 h3 => rw [show 24 + (i - 8 - 16) = i by omega]; simp [h3]
      · next h1 h2 h3 =>
        rw [show 28 + (i - 8 - 16 - 4) = i by omega]
        simp only [Bool.and_eq_right_iff_imp, decide_eq_true_eq]
        intro _; omega

/-- The register field of an RD row's word selects the row. -/
theorem encode_rdInstr (r : BitVec 4) : encode (rdInstr r) = packWord 1 r 0 0 := by
  revert r; decide

/-- The register field of a WR row's word selects the row. -/
theorem encode_wrInstr (r : BitVec 4) (d : Byte) : encode (wrInstr r d) = packWord 2 r 0 d := by
  have h : ∀ r : BitVec 4, r.toNat < 16 := fun r => r.isLt
  have key : ∀ n : Nat, n < 16 → encode (wrInstr (BitVec.ofNat 4 n) d) = packWord 2 (BitVec.ofNat 4 n) 0 d := by
    intro n hn
    interval_cases n <;> rfl
  simpa using key r.toNat (h r)

end Sys2Proof
end

