-- ==== Sys2Proof/Laws/Memory.lean ====
section
/-! SUPPORT. The laws of memory cells: a read after a write, every other address alone, the canonical form kept by every
write, the addresses kept inside a region, and equal readings of canonical memories mean equal memories. -/

namespace Sys2Proof.Machine

variable {init : Nat → Byte}

@[simp] theorem Memory.read_nil (a : Nat) : Memory.read init [] a = init a := rfl

theorem Memory.read_cons (c : Host.Cell) (rest : Memory) (a : Nat) :
    Memory.read init (c :: rest) a = if c.1 = a then c.2 else Memory.read init rest a := rfl

/-- An address below every listed one reads as unlisted. -/
theorem Memory.read_below {m : Memory} {lo a : Nat} (h : Memory.wfFrom init lo m = true) (ha : a < lo) :
    Memory.read init m a = init a := by
  induction m generalizing lo with
  | nil => rfl
  | cons c rest ih =>
    simp only [Memory.wfFrom, Bool.and_eq_true, decide_eq_true_eq] at h
    obtain ⟨⟨h1, _⟩, h3⟩ := h
    have hne : c.1 ≠ a := by omega
    simp only [Memory.read_cons, hne, if_false]
    exact ih h3 (by omega)

/-- Putting a cell before a memory whose addresses are all higher. -/
theorem Memory.read_put_same {m : Memory} {a : Nat} (v : Byte) (h : Memory.wfFrom init (a + 1) m = true) :
    Memory.read init (Memory.put init a v m) a = v := by
  unfold Memory.put
  split
  · next hv => rw [Memory.read_below h (by omega), hv]
  · simp [Memory.read_cons]

theorem Memory.read_put_other {m : Memory} {a b : Nat} (v : Byte) (h : b ≠ a) :
    Memory.read init (Memory.put init a v m) b = Memory.read init m b := by
  unfold Memory.put
  split
  · rfl
  · simp [Memory.read_cons, Ne.symm h]

theorem Memory.wfFrom_mono {m : Memory} {lo lo' : Nat} (h : Memory.wfFrom init lo m = true) (hl : lo' ≤ lo) :
    Memory.wfFrom init lo' m = true := by
  cases m with
  | nil => rfl
  | cons c rest =>
    simp only [Memory.wfFrom, Bool.and_eq_true, decide_eq_true_eq] at h ⊢
    exact ⟨⟨by omega, h.1.2⟩, h.2⟩

theorem Memory.wfFrom_put {m : Memory} {lo a : Nat} (v : Byte) (h : Memory.wfFrom init (a + 1) m = true) (hl : lo ≤ a) :
    Memory.wfFrom init lo (Memory.put init a v m) = true := by
  unfold Memory.put
  split
  · exact Memory.wfFrom_mono h (by omega)
  · next hv => simp [Memory.wfFrom, hl, hv, h]

/-- Reading back what was written, in a canonical memory. -/
theorem Memory.read_write_same_from {m : Memory} {lo a : Nat} (v : Byte) (h : Memory.wfFrom init lo m = true) :
    Memory.read init (Memory.write init m a v) a = v := by
  induction m generalizing lo with
  | nil => exact Memory.read_put_same v rfl
  | cons c rest ih =>
    have h' := h
    simp only [Memory.wfFrom, Bool.and_eq_true, decide_eq_true_eq] at h
    obtain ⟨⟨h1, h2⟩, h3⟩ := h
    unfold Memory.write
    split
    · have hne : c.1 ≠ a := by omega
      simp only [Memory.read_cons, hne, if_false]
      exact ih h3
    · split
      · next he => exact Memory.read_put_same v (he ▸ h3)
      · refine Memory.read_put_same v ?_
        simp only [Memory.wfFrom, Bool.and_eq_true, decide_eq_true_eq]
        exact ⟨⟨by omega, h2⟩, h3⟩

/-- Reading back what was written, in a canonical memory. -/
theorem Memory.read_write_same {m : Memory} (a : Nat) (v : Byte) (h : Memory.wf init m = true) :
    Memory.read init (Memory.write init m a v) a = v :=
  Memory.read_write_same_from v h

/-- A write leaves every other address alone. -/
theorem Memory.read_write_other (m : Memory) {a b : Nat} (v : Byte) (h : b ≠ a) :
    Memory.read init (Memory.write init m a v) b = Memory.read init m b := by
  induction m with
  | nil => exact Memory.read_put_other v h
  | cons c rest ih =>
    unfold Memory.write
    split
    · simp only [Memory.read_cons, ih]
    · split
      · next he =>
        have hne : c.1 ≠ b := by omega
        simp only [Memory.read_put_other v h, Memory.read_cons, hne, if_false]
      · exact Memory.read_put_other v h

theorem Memory.wfFrom_write {m : Memory} {lo a : Nat} (v : Byte) (h : Memory.wfFrom init lo m = true) (hl : lo ≤ a) :
    Memory.wfFrom init lo (Memory.write init m a v) = true := by
  induction m generalizing lo with
  | nil => exact Memory.wfFrom_put v rfl hl
  | cons c rest ih =>
    simp only [Memory.wfFrom, Bool.and_eq_true, decide_eq_true_eq] at h
    obtain ⟨⟨h1, h2⟩, h3⟩ := h
    unfold Memory.write
    split
    · next hlt =>
      simp only [Memory.wfFrom, Bool.and_eq_true, decide_eq_true_eq]
      exact ⟨⟨h1, h2⟩, ih h3 (by omega)⟩
    · split
      · next he => exact Memory.wfFrom_put v (he ▸ h3) hl
      · refine Memory.wfFrom_put v ?_ hl
        simp only [Memory.wfFrom, Bool.and_eq_true, decide_eq_true_eq]
        exact ⟨⟨by omega, h2⟩, h3⟩

/-- Every write keeps the canonical form. -/
theorem Memory.wf_write {m : Memory} (a : Nat) (v : Byte) (h : Memory.wf init m = true) :
    Memory.wf init (Memory.write init m a v) = true :=
  Memory.wfFrom_write v h (Nat.zero_le _)

@[simp] theorem Memory.wf_nil : Memory.wf init [] = true := rfl

/-- A write inside a region keeps every listed address inside it. -/
theorem Memory.within_write {m : Memory} {p : Nat → Bool} (a : Nat) (v : Byte) (h : Memory.within p m = true)
    (ha : p a = true) : Memory.within p (Memory.write init m a v) = true := by
  induction m with
  | nil => unfold Memory.write Memory.put; split <;> simp [Memory.within, ha]
  | cons c rest ih =>
    simp only [Memory.within, List.all_cons, Bool.and_eq_true] at h ih
    unfold Memory.write
    split
    · simp only [Memory.within, List.all_cons, Bool.and_eq_true]
      exact ⟨h.1, ih h.2⟩
    · split <;> unfold Memory.put <;> split <;>
        simp only [Memory.within, List.all_cons, Bool.and_eq_true] <;> simp [h.1, h.2, ha]

/-- A cell at the head of a canonical memory reads differently from an unlisted address. -/
theorem Memory.head_listed {c : Host.Cell} {rest : Memory} {lo : Nat} (h : Memory.wfFrom init lo (c :: rest) = true) :
    Memory.read init (c :: rest) c.1 ≠ init c.1 := by
  simp only [Memory.wfFrom, Bool.and_eq_true, decide_eq_true_eq] at h
  simpa [Memory.read_cons] using h.1.2

/-- Canonical memories with equal readings are equal. -/
theorem Memory.ext_from {m n : Memory} {lo : Nat} (hm : Memory.wfFrom init lo m = true) (hn : Memory.wfFrom init lo n = true)
    (h : ∀ a, Memory.read init m a = Memory.read init n a) : m = n := by
  induction m generalizing n lo with
  | nil =>
    cases n with
    | nil => rfl
    | cons d rest' => exact absurd (h d.1).symm (Memory.head_listed hn)
  | cons c rest ih =>
    cases n with
    | nil => exact absurd (h c.1) (Memory.head_listed hm)
    | cons d rest' =>
      have hm0 := hm
      have hn0 := hn
      simp only [Memory.wfFrom, Bool.and_eq_true, decide_eq_true_eq] at hm hn
      have hcd : c.1 = d.1 := by
        rcases Nat.lt_trichotomy c.1 d.1 with hlt | heq | hgt
        · exfalso
          have hd : Memory.wfFrom init d.1 (d :: rest') = true := by simp [Memory.wfFrom, hn.1.2, hn.2]
          exact Memory.head_listed hm0 ((h c.1).trans (Memory.read_below hd hlt))
        · exact heq
        · exfalso
          have hc : Memory.wfFrom init c.1 (c :: rest) = true := by simp [Memory.wfFrom, hm.1.2, hm.2]
          exact Memory.head_listed hn0 ((h d.1).symm.trans (Memory.read_below hc hgt))
      have hv : c.2 = d.2 := by
        have := h c.1
        simpa [Memory.read_cons, hcd] using this
      have hrest : rest = rest' := by
        refine ih hm.2 (hcd ▸ hn.2) fun a => ?_
        by_cases hlow : a < c.1 + 1
        · rw [Memory.read_below hm.2 hlow, Memory.read_below hn.2 (hcd ▸ hlow)]
        · have h1 : c.1 ≠ a := by omega
          have h2 : d.1 ≠ a := by omega
          simpa [Memory.read_cons, h1, h2] using h a
      rw [hrest, Prod.ext hcd hv]

/-- Canonical memories with equal readings are equal. -/
theorem Memory.ext_of_wf {m n : Memory} (hm : Memory.wf init m = true) (hn : Memory.wf init n = true)
    (h : ∀ a, Memory.read init m a = Memory.read init n a) : m = n :=
  Memory.ext_from hm hn h

/-! ## The memory array and the framebuffer -/

/-- MEM reads back what MEMW wrote (R430). -/
theorem State.memByte_setMemByte_same (cfg : Config) (s : State) (i : MemIx) (v : Byte)
    (h : s.mem.wf cfg.memInit = true) : (s.setMemByte cfg i v).memByte cfg i = v :=
  Memory.read_write_same _ v h

theorem State.memByte_setMemByte_other (cfg : Config) (s : State) (i j : MemIx) (v : Byte) (h : j ≠ i) :
    (s.setMemByte cfg i v).memByte cfg j = s.memByte cfg j :=
  Memory.read_write_other _ v fun e => h (BitVec.eq_of_toNat_eq e)

theorem fbExists_iff {cfg : Config} {S : Standard} {y x : Nat} :
    fbExists cfg S y x = true ↔ y < cfg.fbHeight S ∧ x < cfg.fbWidth S := by simp [fbExists]

/-- Different cells of the framebuffer have different keys, whatever its width. -/
theorem fbKey_injective {cfg : Config} {S : Standard} {y y' x x' : Nat} (hx : x < cfg.fbWidth S) (hx' : x' < cfg.fbWidth S)
    (h : fbKey cfg S y x = fbKey cfg S y' x') : y = y' ∧ x = x' := by
  have line : ∀ {y x}, x < cfg.fbWidth S → fbKey cfg S y x / cfg.fbWidth S = y := fun {y x} hx => by
    unfold fbKey; rw [Nat.mul_comm, Nat.mul_add_div (by omega), Nat.div_eq_of_lt hx, Nat.add_zero]
  have hy : y = y' := by rw [← line (y := y) hx, h, line hx']
  subst hy
  exact ⟨rfl, Nat.add_left_cancel h⟩

/-- The cells of the framebuffer have the keys below its size. -/
theorem fbKey_inside {cfg : Config} {S : Standard} {y x : Nat} (hy : y < cfg.fbHeight S) (hx : x < cfg.fbWidth S) :
    fbKeyInside cfg S (fbKey cfg S y x) = true := by
  have := Nat.mul_le_mul_right (cfg.fbWidth S) (Nat.succ_le_of_lt hy)
  rw [Nat.succ_mul] at this
  exact decide_eq_true (show y * cfg.fbWidth S + x < _ by omega)

/-- Plotting keeps the framebuffer's canonical form. -/
theorem fbPlot_wf (cfg : Config) (S : Standard) {fb : Memory} (y : Int) (x : Nat) (p : Byte)
    (h : fb.wf fbInit = true) : (fbPlot cfg S fb y x p).wf fbInit = true := by
  unfold fbPlot; split
  · exact Memory.wf_write _ _ h
  · exact h

/-- Plotting keeps every listed cell inside the buffer. -/
theorem fbPlot_within (cfg : Config) (S : Standard) {fb : Memory} (y : Int) (x : Nat) (p : Byte)
    (h : fb.within (fbKeyInside cfg S) = true) : (fbPlot cfg S fb y x p).within (fbKeyInside cfg S) = true := by
  unfold fbPlot; split
  · next hin => exact Memory.within_write _ _ h (fbKey_inside (by omega) hin.2.2)
  · exact h

end Sys2Proof.Machine
end

