-- ==== Sys2Proof/Laws/Environment.lean ====
section
/-! SUPPORT. What the obligation towards the framebuffer's reader gives (70_reset_and_hazards.md R541). -/

namespace Sys2Proof.Machine

theorem mem_windowCycles {cfg : Config} {S : Standard} {h : Nat} :
    h ∈ windowCycles cfg S ↔ h < lineCycles S ∧ cfg.hvisStart S ≤ h ∧ h < cfg.hvisEnd S := by simp [windowCycles]

/-- At a visible cycle the writer has more to write to its line. -/
theorem State.lineEnded_of_visible {cfg : Config} {s : State} (hl : s.hc.toNat < lineCycles s.standard)
    (hv : visible cfg s.standard s.hc s.vc = true) : s.lineEnded cfg = false := by
  simp only [visible, Bool.and_eq_true, decide_eq_true_eq] at hv
  exact List.all_eq_false.2 ⟨s.hc.toNat, mem_windowCycles.2 ⟨hl, hv.1.2, hv.2⟩, by simp⟩

/-- The writer is never in the middle of a readable line: at a visible cycle it is on another line, or has yet to begin this one (the
writer and the reader keep to disjoint lines, R415). -/
theorem State.lineReadable_disjoint {cfg : Config} {past : List State} {s : State} {yr : Nat}
    (hl : s.hc.toNat < lineCycles s.standard) (hr : s.lineReadable cfg past yr = true)
    (hv : visible cfg s.standard s.hc s.vc = true) : s.onLine cfg yr = false ∨ s.lineBegun cfg past = false := by
  simp only [State.lineReadable, State.insideLine, State.lineEnded_of_visible hl hv, Bool.and_eq_true, Bool.not_eq_true',
    Bool.and_eq_false_iff] at hr
  simpa using hr.1.2

/-- A readable line is one that the raster has been on and whose every window cycle has run since the frames last started afresh. -/
theorem State.lineReadable_written {cfg : Config} {past : List State} {s : State} {yr : Nat}
    (hr : s.lineReadable cfg past yr = true) : (∃ p ∈ past, p.onLine cfg yr = true) ∧
      ∀ h ∈ windowCycles cfg s.standard, ∃ p ∈ past, p.onLine cfg yr = true ∧ p.hc.toNat = h := by
  simp only [State.lineReadable, State.finishedLine, Bool.and_eq_true] at hr
  simpa using hr.1.1

/-- Right after a start afresh no line is readable, whatever the configuration. -/
theorem State.lineReadable_afresh (cfg : Config) (s : State) (yr : Nat) : s.lineReadable cfg [] yr = false := by
  simp [State.lineReadable, State.finishedLine]

/-- The reader sees only what is written: the cell as it stands (R106). -/
theorem State.dviRead_eq {cfg : Config} {past : List State} {s : State} {y x : Nat} {p : Byte}
    (h : s.dviRead cfg past y x = some p) : s.lineReadable cfg past y = true ∧ s.fbCell cfg y x = some p := by
  unfold State.dviRead at h
  split at h
  · exact ⟨‹_›, h⟩
  · cases h

end Sys2Proof.Machine
end

