-- ==== Sys2Proof/Laws/Passes.lean ====
section
/-! SUPPORT. What each operation inside a TICK does, once: the raster fields, the vertical increment, the row accounting, the fetch
pass, the pixel decode, the encoder's words and one plotted pixel; and how TICKs compose. -/

namespace Sys2Proof.Machine

/-! ## Raster readback -/

theorem withRasterLsb_low (r : Byte) (b : Bool) : (withRasterLsb r b).extractLsb' 0 7 = r.extractLsb' 0 7 := by
  revert r b; decide

theorem withRasterLsb_high (r : Byte) (b : Bool) : (withRasterLsb r b).getLsbD 7 = b := by
  revert r b; decide

theorem rasterUpdate_reg_four (s : State) : (rasterUpdate s).reg 4 = s.vc.extractLsb' 1 8 := by
  simp [rasterUpdate, State.reg]

theorem rasterUpdate_reg_three (s : State) : (rasterUpdate s).reg 3 = withRasterLsb (s.reg 3) (s.vc.getLsbD 0) := by
  simp [rasterUpdate, State.reg]

theorem rasterUpdate_reg_other (s : State) (n : RegIx) (h3 : n ≠ 3) (h4 : n ≠ 4) : (rasterUpdate s).reg n = s.reg n := by
  unfold rasterUpdate
  rw [State.reg_setReg_other _ _ _ _ h3, State.reg_setReg_other _ _ _ _ h4]

theorem rasterPhase_reg_other (cfg : Config) (h : BitVec 7) (s : State) (n : RegIx) (h3 : n ≠ 3) (h4 : n ≠ 4) :
    (rasterPhase cfg h s).reg n = s.reg n := by
  unfold rasterPhase; split
  · exact rasterUpdate_reg_other s n h3 h4
  · rfl

theorem rasterPhase_reg_three_low (cfg : Config) (h : BitVec 7) (s : State) :
    ((rasterPhase cfg h s).reg 3).extractLsb' 0 7 = (s.reg 3).extractLsb' 0 7 := by
  unfold rasterPhase; split
  · rw [rasterUpdate_reg_three, withRasterLsb_low]
  · rfl

/-! ## Counters -/

theorem lineCycles_le (S : Standard) : 0 < lineCycles S ∧ lineCycles S ≤ 71 := by cases S <;> decide

theorem frameLength_range (s : State) : 0 < s.frameLength ∧ s.frameLength ≤ maxFrameLines s.standard := by
  unfold State.frameLength; cases s.standard <;> cases s.interlace <;> decide

theorem verticalIncrement_vc (s : State) :
    (verticalIncrement s).vc = if s.frameLength ≤ s.vc.toNat + 1 then 0 else s.vc + 1 := by
  unfold verticalIncrement; split <;> rfl

theorem verticalIncrement_fstate (s : State) :
    (verticalIncrement s).fstate = if s.frameLength ≤ s.vc.toNat + 1 then .outsideMatrix else s.fstate := by
  unfold verticalIncrement; split <;> rfl

theorem rowAccounting_cdc (s : State) : (rowAccounting s).cdc =
    if xMatched s.fstate then if s.cellHeight ≤ s.cdc.toNat + 1 then 0 else s.cdc + 1 else s.cdc := by
  unfold rowAccounting; split <;> [split; skip] <;> rfl

theorem rowAccounting_vcc (s : State) : (rowAccounting s).vcc =
    if xMatched s.fstate then if s.cellHeight ≤ s.cdc.toNat + 1 then s.vcc - 1 else s.vcc else s.vcc := by
  unfold rowAccounting; split <;> [split; skip] <;> rfl

theorem rowAccounting_vmc (s : State) : (rowAccounting s).vmc =
    if xMatched s.fstate then if s.cellHeight ≤ s.cdc.toNat + 1 then s.vmc else s.vmcl else s.vmc := by
  unfold rowAccounting; split <;> [split; skip] <;> rfl

theorem rowAccounting_vmcl (s : State) : (rowAccounting s).vmcl =
    if xMatched s.fstate then if s.cellHeight ≤ s.cdc.toNat + 1 then s.vmc else s.vmcl else s.vmcl := by
  unfold rowAccounting; split <;> [split; skip] <;> rfl

/-! ## Fetching -/

/-- Outside the matrix nothing but the Y comparison runs; in every other fetch state the row counters stay. -/
theorem fetchPass_row_counters (cfg : Config) (h : BitVec 7) (v : BitVec 9) (s : State) (ho : s.fstate ≠ .outsideMatrix) :
    (fetchPass cfg h v s).cdc = s.cdc ∧ (fetchPass cfg h v s).vcc = s.vcc := by
  unfold fetchPass
  split <;> rename_i h2 <;> (try exact absurd h2 ho) <;> (try simp [xCompare, screenCodeFetch, charDataFetch]) <;> split <;> simp

/-- Only CHAR_DATA writes the pipeline (R300). -/
theorem fetchPass_pipe (cfg : Config) (h : BitVec 7) (v : BitVec 9) (s : State) (hc : s.fstate ≠ .charData) :
    (fetchPass cfg h v s).pipe = s.pipe := by
  unfold fetchPass
  cases hf : s.fstate <;> simp [screenCodeFetch]
  exact absurd hf hc

/-- Only SCREEN_CODE writes the latches (R298). -/
theorem fetchPass_latches (cfg : Config) (h : BitVec 7) (v : BitVec 9) (s : State) (hc : s.fstate ≠ .screenCode) :
    (fetchPass cfg h v s).code = s.code ∧ (fetchPass cfg h v s).colr = s.colr := by
  unfold fetchPass
  cases hf : s.fstate <;> simp [charDataFetch]
  exact absurd hf hc

/-! ## Pixels and outputs -/

theorem extract_pair (b : Byte) (k : Nat) :
    (b.extractLsb' k 2).toNat = 2 * (b.getLsbD (k + 1)).toNat + (b.getLsbD k).toNat := by
  have two_bits : ∀ x : BitVec 2, x.toNat = 2 * (x.getLsbD 1).toNat + (x.getLsbD 0).toNat := by decide
  rw [two_bits]; simp

theorem visible_window {cfg : Config} {S : Standard} {hc : BitVec 7} {vc : BitVec 9} (h : visible cfg S hc vc = true) :
    cfg.hvisStart S ≤ hc.toNat ∧ hc.toNat < cfg.hvisEnd S := by
  unfold visible at h
  simp only [Bool.and_eq_true, decide_eq_true_eq] at h
  exact ⟨h.1.2, h.2⟩

/-- Every word of a cycle has the width of its standard (R357). -/
theorem encoderWords_width {cfg : Config} {S : Standard} {p f : Bool} {h : BitVec 7} {v : BitVec 9} {b : Vector Colour 4}
    {w : CmdWord} (hw : w ∈ encoderWords cfg S p f h v b) : w.width = cfg.cmdWidth S := by
  simp only [encoderWords, syncWords, List.mem_append, List.mem_map] at hw
  rcases hw with ⟨x, _, rfl⟩ | hw
  · rfl
  · split at hw
    · obtain ⟨k, _, rfl⟩ := List.mem_map.1 hw
      cases S <;> rfl
    · cases hw

/-- What a cell of the buffer reads after one pixel is plotted. -/
theorem fbPlot_read (cfg : Config) (S : Standard) {fb : Memory} (h : fb.wf fbInit = true) (y : Int) (x : Nat) (p : Byte)
    {y' x' : Nat} (hy' : y' < cfg.fbHeight S) (hx' : x' < cfg.fbWidth S) :
    (fbPlot cfg S fb y x p).read fbInit (fbKey cfg S y' x') =
      if y = y' ∧ x = x' then p else fb.read fbInit (fbKey cfg S y' x') := by
  unfold fbPlot
  by_cases hin : 0 ≤ y ∧ y < cfg.fbHeight S ∧ x < cfg.fbWidth S
  · rw [if_pos hin]
    by_cases hk : fbKey cfg S y.toNat x = fbKey cfg S y' x'
    · obtain ⟨a, b⟩ := fbKey_injective hin.2.2 hx' hk
      rw [hk, Memory.read_write_same _ _ h, if_pos (by omega)]
    · rw [Memory.read_write_other _ _ (Ne.symm hk), if_neg]
      rintro ⟨rfl, rfl⟩
      exact hk (by simp)
  · rw [if_neg hin, if_neg]
    rintro ⟨rfl, rfl⟩
    exact hin (by omega)

/-- The three channels of a pixel make up its byte (R137). -/
theorem rgb332_channels (p : Byte) : rgb332 (pixelRed p) (pixelGreen p) (pixelBlue p) = p := by revert p; decide

theorem framebufferStep_fbcol (cfg : Config) (h : BitVec 7) (v : BitVec 9) (b : Vector Colour 4) (s : State) :
    (framebufferStep cfg h v b s).fbcol = if visible cfg s.standard h v then s.fbcol + 4 else s.fbcol := by
  unfold framebufferStep; split <;> rfl

/-! ## Runs of TICKs -/

theorem ticks_succ (cfg : Config) (n : Nat) (s : State) : ticks cfg (n + 1) s = tick cfg (ticks cfg n s) := by
  induction n generalizing s with
  | zero => rfl
  | succ n ih => exact ih (tick cfg s)

theorem ticks_add (cfg : Config) (m n : Nat) (s : State) : ticks cfg (m + n) s = ticks cfg m (ticks cfg n s) := by
  induction n generalizing s with
  | zero => rfl
  | succ n ih => exact ih (tick cfg s)

theorem ticks_standard (cfg : Config) (n : Nat) (s : State) : (ticks cfg n s).standard = s.standard := by
  induction n generalizing s with
  | zero => rfl
  | succ n ih => exact (ih _).trans (tick_standard cfg s)

end Sys2Proof.Machine
end

