-- ==== Sys2Proof/Laws/PerInstr.lean ====
section
/-! SUPPORT. Statements made per instruction: every stimulus's word lies in its own row of the opcode table (R122). -/

namespace Sys2Proof.Laws.TableRow

/-- The word of the stimulus, masked as its row says, is the row's match (R122). -/
def Statement (i : Instr) : Prop := encode i &&& rowMask i = rowMatch i

theorem of_byte (op r : BitVec 4) (d : Byte) : packWord op r 0 d &&& 0xFFFFFF00 = packWord op r 0 0 := by
  unfold packWord
  apply BitVec.eq_of_getLsbD_eq
  intro i hi
  rw [BitVec.getLsbD_and]
  simp only [BitVec.getLsbD_append]
  by_cases h : i < 8
  · have hm : (0xFFFFFF00 : Word).getLsbD i = false := by interval_cases i <;> rfl
    rw [hm]; simp [h]
  · have hm : (0xFFFFFF00 : Word).getLsbD i = true := by
      have hh : 8 ≤ i := by omega
      interval_cases i <;> rfl
    rw [hm]; simp [h]

theorem of_index (op r : BitVec 4) (a : MemIx) (d : Byte) : packWord op r a d &&& 0xFF000000 = packWord op r 0 0 := by
  unfold packWord
  apply BitVec.eq_of_getLsbD_eq
  intro i hi
  rw [BitVec.getLsbD_and]
  simp only [BitVec.getLsbD_append]
  by_cases h : i < 24
  · have hm : (0xFF000000 : Word).getLsbD i = false := by interval_cases i <;> rfl
    have h2 : i - 8 < 16 := by omega
    rw [hm]; simp [h2]
  · have hm : (0xFF000000 : Word).getLsbD i = true := by
      have hh : 24 ≤ i := by omega
      interval_cases i <;> rfl
    have h1 : ¬ i < 8 := by omega
    have h2 : ¬ i - 8 < 16 := by omega
    rw [hm]; simp [h1, h2]

theorem tick : Statement .tick := by unfold Statement; decide
theorem rdR0 : Statement .rdR0 := by unfold Statement; decide
theorem rdR1 : Statement .rdR1 := by unfold Statement; decide
theorem rdR2 : Statement .rdR2 := by unfold Statement; decide
theorem rdR3 : Statement .rdR3 := by unfold Statement; decide
theorem rdR4 : Statement .rdR4 := by unfold Statement; decide
theorem rdR5 : Statement .rdR5 := by unfold Statement; decide
theorem rdR6 : Statement .rdR6 := by unfold Statement; decide
theorem rdR7 : Statement .rdR7 := by unfold Statement; decide
theorem rdR8 : Statement .rdR8 := by unfold Statement; decide
theorem rdR9 : Statement .rdR9 := by unfold Statement; decide
theorem rdR10 : Statement .rdR10 := by unfold Statement; decide
theorem rdR11 : Statement .rdR11 := by unfold Statement; decide
theorem rdR12 : Statement .rdR12 := by unfold Statement; decide
theorem rdR13 : Statement .rdR13 := by unfold Statement; decide
theorem rdR14 : Statement .rdR14 := by unfold Statement; decide
theorem rdR15 : Statement .rdR15 := by unfold Statement; decide
theorem wrR0 (d : Byte) : Statement (.wrR0 d) := of_byte 2 0 d
theorem wrR1 (d : Byte) : Statement (.wrR1 d) := of_byte 2 1 d
theorem wrR2 (d : Byte) : Statement (.wrR2 d) := of_byte 2 2 d
theorem wrR3 (d : Byte) : Statement (.wrR3 d) := of_byte 2 3 d
theorem wrR4 (d : Byte) : Statement (.wrR4 d) := of_byte 2 4 d
theorem wrR5 (d : Byte) : Statement (.wrR5 d) := of_byte 2 5 d
theorem wrR6 (d : Byte) : Statement (.wrR6 d) := of_byte 2 6 d
theorem wrR7 (d : Byte) : Statement (.wrR7 d) := of_byte 2 7 d
theorem wrR8 (d : Byte) : Statement (.wrR8 d) := of_byte 2 8 d
theorem wrR9 (d : Byte) : Statement (.wrR9 d) := of_byte 2 9 d
theorem wrR10 (d : Byte) : Statement (.wrR10 d) := of_byte 2 10 d
theorem wrR11 (d : Byte) : Statement (.wrR11 d) := of_byte 2 11 d
theorem wrR12 (d : Byte) : Statement (.wrR12 d) := of_byte 2 12 d
theorem wrR13 (d : Byte) : Statement (.wrR13 d) := of_byte 2 13 d
theorem wrR14 (d : Byte) : Statement (.wrR14 d) := of_byte 2 14 d
theorem wrR15 (d : Byte) : Statement (.wrR15 d) := of_byte 2 15 d
theorem memw (a : MemIx) (d : Byte) : Statement (.memw a d) := of_index 3 0 a d
theorem mode (m : Byte) : Statement (.mode m) := of_byte 4 0 m
theorem reset : Statement .reset := by unfold Statement; decide
theorem overrun : Statement .overrun := by unfold Statement; decide
theorem diag : Statement .diag := by unfold Statement; decide

end Sys2Proof.Laws.TableRow
end

