-- ==== Sys2Proof/Tests/Slice0.lean ====
section
/-! SUPPORT. The model's own tests. Words are written out from 30_encoding.md R120 and R121; the expected values of the one-step tests
are those of 95_test_vectors.md and of the rules' worked examples, under the spec's example configuration EX. The last part has one
witness theorem for the hypotheses of each obligation. -/

namespace Sys2Proof.Tests

open Sys2Proof Sys2Proof.Machine

/-- EX's OPEN parameters (95_test_vectors.md section 2); the encoder's symbolic words are spelled with distinct bits. -/
def exOpen : OpenParams where
  visEndNtsc := 253
  vsyncEndNtsc := 256
  hcVcInc := fun | .pal => 70 | .ntsc => 64
  hcRaster := fun _ => 0
  hvisStart := fun _ => 0
  hvisEnd := lineCycles
  fbWidth := fun | .pal => 284 | .ntsc => 260
  fbHeight := fun | .pal => 285 | .ntsc => 253
  fbLineOffset := fun _ => 0
  fbColour := fun c => c.setWidth 8
  cmdWidth := fun _ => 16
  cmdLayout := fun _ => ⟨0, 0, 4, 4, 4, 8, 4⟩
  syncCmds := fun S lc parity field hc =>
    [(match S with | .pal => 0x8000#16 | .ntsc => 0xC000#16) |||
     (match lc with | .visible => 0#16 | .vsync => 0x1000#16 | .vblank => 0x2000#16) |||
     (if parity then 0x800#16 else 0#16) ||| (if field then 0x400#16 else 0#16) ||| hc.setWidth 16]
  palPix := fun parity c => 0x100#16 ||| (if parity then 0x10#16 else 0#16) ||| c.setWidth 16
  palPixTrunc := fun parity c => 0x200#16 ||| (if parity then 0x10#16 else 0#16) ||| c.setWidth 16
  ntscPix := fun row c => 0x100#16 ||| (if row = 1 then 0x10#16 else 0#16) ||| c.setWidth 16
  ntscPixTrunc := fun row c => 0x200#16 ||| (if row = 1 then 0x10#16 else 0#16) ||| c.setWidth 16
  ntscRow := fun parity _ _ => if parity then 1 else 0
  openBus := fun _ => false
  openBusValue := 0
  modeOk := fun _ => true
  testPattern := fun _ _ _ k => BitVec.ofNat 4 (k.val + 8)
  memInit := fun _ => 0
  minLeadLines := 0
  queueCapacity := 0
  cycleBudget := 0

/-- EX: the spec's example configuration, no claim about the hardware. -/
def ex : Config := specConfig exOpen

/-- The state after RESET with a list of registers written. -/
def regsSet (rs : List (RegIx × Byte)) : State := rs.foldl (fun s r => s.setReg r.1 r.2) (State.initial ex)

/-- A state at a given cycle of a given line. -/
def atCycle (s : State) (hc : BitVec 7) (vc : BitVec 9) : State := { s with hc := hc, vc := vc }

/-- The outcome is a next state, and the state satisfies `p`. -/
def nextIs (o : Host.Outcome State Fault Refusal) (p : State → Bool) : Bool :=
  match o with
  | .next t => p t
  | .fault _ => false
  | .refused _ => false

/-- The bits of the words a TICK appended to an empty stream. -/
def emitted (s : State) : List Nat := s.out.map fun w => w.bits.toNat

/-! ## Well-formed lines: each check refuses an ill-formed one -/

theorem test_wf_rd_register : (AsmLine.rd 16).wellFormed = false := by decide
theorem test_wf_wr_register : (AsmLine.wr 16 0).wellFormed = false := by decide
theorem test_wf_wr_byte : (AsmLine.wr 0 256).wellFormed = false := by decide
theorem test_wf_memw_nothing : (AsmLine.memw 0 []).wellFormed = false := by decide
theorem test_wf_memw_span : (AsmLine.memw 0xFFFF [1, 2]).wellFormed = false := by decide
theorem test_wf_memw_byte : (AsmLine.memw 0 [256]).wellFormed = false := by decide
theorem test_wf_mode_byte : (AsmLine.mode 256).wellFormed = false := by decide
theorem test_wf_memfill_span : (AsmLine.memfill 0x8000 0x8001 0).wellFormed = false := by decide
theorem test_wf_memfill_byte : (AsmLine.memfill 0 1 256).wellFormed = false := by decide
theorem test_wf_wrall_count : (AsmLine.wrall [0]).wellFormed = false := by decide
theorem test_wf_wrall_byte : (AsmLine.wrall [0, 0, 0, 0, 0, 0, 0, 0, 0, 0, 0, 0, 0, 0, 0, 256]).wellFormed = false := by decide
theorem test_wf_legal_line : (AsmLine.wr 15 0xFF).wellFormed = true ∧ (AsmLine.memw 0xFFFF [0xFF]).wellFormed = true := by decide

/-! ## Decoding: every row's word, from the encoding table -/

theorem test_decode_tick : decode 0x00000000 = .instr .tick := by decide
theorem test_decode_rd_r0 : decode 0x10000000 = .instr .rdR0 := by decide
theorem test_decode_rd_r1 : decode 0x11000000 = .instr .rdR1 := by decide
theorem test_decode_rd_r2 : decode 0x12000000 = .instr .rdR2 := by decide
theorem test_decode_rd_r3 : decode 0x13000000 = .instr .rdR3 := by decide
theorem test_decode_rd_r4 : decode 0x14000000 = .instr .rdR4 := by decide
theorem test_decode_rd_r5 : decode 0x15000000 = .instr .rdR5 := by decide
theorem test_decode_rd_r6 : decode 0x16000000 = .instr .rdR6 := by decide
theorem test_decode_rd_r7 : decode 0x17000000 = .instr .rdR7 := by decide
theorem test_decode_rd_r8 : decode 0x18000000 = .instr .rdR8 := by decide
theorem test_decode_rd_r9 : decode 0x19000000 = .instr .rdR9 := by decide
theorem test_decode_rd_r10 : decode 0x1A000000 = .instr .rdR10 := by decide
theorem test_decode_rd_r11 : decode 0x1B000000 = .instr .rdR11 := by decide
theorem test_decode_rd_r12 : decode 0x1C000000 = .instr .rdR12 := by decide
theorem test_decode_rd_r13 : decode 0x1D000000 = .instr .rdR13 := by decide
theorem test_decode_rd_r14 : decode 0x1E000000 = .instr .rdR14 := by decide
theorem test_decode_rd_r15 : decode 0x1F000000 = .instr .rdR15 := by decide
theorem test_decode_wr_r0 : decode 0x200000A0 = .instr (.wrR0 0xA0) := by decide
theorem test_decode_wr_r1 : decode 0x210000A1 = .instr (.wrR1 0xA1) := by decide
theorem test_decode_wr_r2 : decode 0x220000A2 = .instr (.wrR2 0xA2) := by decide
theorem test_decode_wr_r3 : decode 0x230000A3 = .instr (.wrR3 0xA3) := by decide
theorem test_decode_wr_r4 : decode 0x240000A4 = .instr (.wrR4 0xA4) := by decide
theorem test_decode_wr_r5 : decode 0x250000A5 = .instr (.wrR5 0xA5) := by decide
theorem test_decode_wr_r6 : decode 0x260000A6 = .instr (.wrR6 0xA6) := by decide
theorem test_decode_wr_r7 : decode 0x270000A7 = .instr (.wrR7 0xA7) := by decide
theorem test_decode_wr_r8 : decode 0x280000A8 = .instr (.wrR8 0xA8) := by decide
theorem test_decode_wr_r9 : decode 0x290000A9 = .instr (.wrR9 0xA9) := by decide
theorem test_decode_wr_r10 : decode 0x2A0000AA = .instr (.wrR10 0xAA) := by decide
theorem test_decode_wr_r11 : decode 0x2B0000AB = .instr (.wrR11 0xAB) := by decide
theorem test_decode_wr_r12 : decode 0x2C0000AC = .instr (.wrR12 0xAC) := by decide
theorem test_decode_wr_r13 : decode 0x2D0000AD = .instr (.wrR13 0xAD) := by decide
theorem test_decode_wr_r14 : decode 0x2E0000AE = .instr (.wrR14 0xAE) := by decide
theorem test_decode_wr_r15 : decode 0x2F0000AF = .instr (.wrR15 0xAF) := by decide
theorem test_decode_memw : decode 0x30FFFE81 = .instr (.memw 0xFFFE 0x81) := by decide
theorem test_decode_mode : decode 0x40000002 = .instr (.mode 2) ∧ decode 0x400000FF = .instr (.mode 0xFF) := by decide
theorem test_decode_reset : decode 0x50000000 = .instr .reset := by decide
theorem test_decode_overrun : decode 0x60000000 = .instr .overrun := by decide
theorem test_decode_diag : decode 0x70000000 = .instr .diag := by decide
theorem test_decode_reserved_op : decode 0x80000000 = .refused .reservedOp ∧ decode 0xFFFFFFFF = .refused .reservedOp := by decide
theorem test_decode_reserved_bits : decode 0x0F000000 = .refused .reservedBitsNonzero ∧
    decode 0x10000100 = .refused .reservedBitsNonzero ∧ decode 0x20800000 = .refused .reservedBitsNonzero ∧
    decode 0x38000000 = .refused .reservedBitsNonzero ∧ decode 0x40000100 = .refused .reservedBitsNonzero ∧
    decode 0x50000001 = .refused .reservedBitsNonzero ∧ decode 0x61000000 = .refused .reservedBitsNonzero := by decide
theorem test_decode_table_word : decodeTableWord 32 0x2F00001B = some (.wrR15 0x1B) ∧ decodeTableWord 32 0x80000000 = none := by decide

/-! ## The text of a stimulus program (R140) -/

theorem test_parse_wr : parseLine "wr R4, $aa ; note".toList = .line (.wr 4 0xAA) := by decide
theorem test_parse_mode : parseLine "MODE NTSCTEST".toList = .line (.mode 3) := by decide
theorem test_parse_case : parseLine "Wr r07, 0Xaa".toList = .line (.wr 7 0xAA) ∧ parseLine "mode ntsc".toList = .line (.mode 1) := by decide
theorem test_parse_bad_register : parseLine "RD R16".toList = .bad := by decide
theorem test_line_words_memw : lineWords .pal false (.memw 0x1E00 [1, 2]) = [0x301E0001, 0x301E0102] := by decide

/-! ## One step per stimulus -/

/-- V1.1: the reset bank reads 0, through the step that fetches the word. -/
theorem test_step_read_after_reset : nextIs (step (State.reset.withFetchWord 32 0x14000000)) (fun t => decide (t.reply = .byte 0 ∧ t.stim = [])) = true := by decide
theorem test_read_r0 : nextIs (exec .rdR0 (regsSet [(0, 0x30), (1, 0xFF)])) (fun t => decide (t.reply = .byte 0x30)) = true := by decide
theorem test_read_r1 : nextIs (exec .rdR1 (regsSet [(1, 0x31), (2, 0xFF)])) (fun t => decide (t.reply = .byte 0x31)) = true := by decide
theorem test_read_r2 : nextIs (exec .rdR2 (regsSet [(2, 0x32), (3, 0xFF)])) (fun t => decide (t.reply = .byte 0x32)) = true := by decide
theorem test_read_r3 : nextIs (exec .rdR3 (regsSet [(3, 0x33), (4, 0xFF)])) (fun t => decide (t.reply = .byte 0x33)) = true := by decide
theorem test_read_r4 : nextIs (exec .rdR4 (regsSet [(4, 0x34), (5, 0xFF)])) (fun t => decide (t.reply = .byte 0x34)) = true := by decide
theorem test_read_r5 : nextIs (exec .rdR5 (regsSet [(5, 0x35), (6, 0xFF)])) (fun t => decide (t.reply = .byte 0x35)) = true := by decide
theorem test_read_r6 : nextIs (exec .rdR6 (regsSet [(6, 0x36), (7, 0xFF)])) (fun t => decide (t.reply = .byte 0x36)) = true := by decide
theorem test_read_r7 : nextIs (exec .rdR7 (regsSet [(7, 0x37), (8, 0xFF)])) (fun t => decide (t.reply = .byte 0x37)) = true := by decide
theorem test_read_r8 : nextIs (exec .rdR8 (regsSet [(8, 0x38), (9, 0xFF)])) (fun t => decide (t.reply = .byte 0x38)) = true := by decide
theorem test_read_r9 : nextIs (exec .rdR9 (regsSet [(9, 0x39), (10, 0xFF)])) (fun t => decide (t.reply = .byte 0x39)) = true := by decide
theorem test_read_r10 : nextIs (exec .rdR10 (regsSet [(10, 0x3A), (11, 0xFF)])) (fun t => decide (t.reply = .byte 0x3A)) = true := by decide
theorem test_read_r11 : nextIs (exec .rdR11 (regsSet [(11, 0x3B), (12, 0xFF)])) (fun t => decide (t.reply = .byte 0x3B)) = true := by decide
theorem test_read_r12 : nextIs (exec .rdR12 (regsSet [(12, 0x3C), (13, 0xFF)])) (fun t => decide (t.reply = .byte 0x3C)) = true := by decide
theorem test_read_r13 : nextIs (exec .rdR13 (regsSet [(13, 0x3D), (14, 0xFF)])) (fun t => decide (t.reply = .byte 0x3D)) = true := by decide
theorem test_read_r14 : nextIs (exec .rdR14 (regsSet [(14, 0x3E), (15, 0xFF)])) (fun t => decide (t.reply = .byte 0x3E)) = true := by decide
theorem test_read_r15 : nextIs (exec .rdR15 (regsSet [(15, 0x3F), (0, 0xFF)])) (fun t => decide (t.reply = .byte 0x3F)) = true := by decide
theorem test_write_r0 : nextIs (exec (.wrR0 0xC0) (regsSet [(1, 0x55)])) (fun t => decide (t.reg 0 = 0xC0 ∧ t.reg 1 = 0x55 ∧ t.reg 15 = 0)) = true := by decide
theorem test_write_r1 : nextIs (exec (.wrR1 0xC1) (regsSet [(2, 0x55)])) (fun t => decide (t.reg 1 = 0xC1 ∧ t.reg 2 = 0x55 ∧ t.reg 0 = 0)) = true := by decide
theorem test_write_r2 : nextIs (exec (.wrR2 0xC2) (regsSet [(3, 0x55)])) (fun t => decide (t.reg 2 = 0xC2 ∧ t.reg 3 = 0x55 ∧ t.reg 1 = 0)) = true := by decide
theorem test_write_r3 : nextIs (exec (.wrR3 0xC3) (regsSet [(4, 0x55)])) (fun t => decide (t.reg 3 = 0xC3 ∧ t.reg 4 = 0x55 ∧ t.reg 2 = 0)) = true := by decide
theorem test_write_r4 : nextIs (exec (.wrR4 0xC4) (regsSet [(5, 0x55)])) (fun t => decide (t.reg 4 = 0xC4 ∧ t.reg 5 = 0x55 ∧ t.reg 3 = 0)) = true := by decide
theorem test_write_r5 : nextIs (exec (.wrR5 0xC5) (regsSet [(6, 0x55)])) (fun t => decide (t.reg 5 = 0xC5 ∧ t.reg 6 = 0x55 ∧ t.reg 4 = 0)) = true := by decide
theorem test_write_r6 : nextIs (exec (.wrR6 0xC6) (regsSet [(7, 0x55)])) (fun t => decide (t.reg 6 = 0xC6 ∧ t.reg 7 = 0x55 ∧ t.reg 5 = 0)) = true := by decide
theorem test_write_r7 : nextIs (exec (.wrR7 0xC7) (regsSet [(8, 0x55)])) (fun t => decide (t.reg 7 = 0xC7 ∧ t.reg 8 = 0x55 ∧ t.reg 6 = 0)) = true := by decide
theorem test_write_r8 : nextIs (exec (.wrR8 0xC8) (regsSet [(9, 0x55)])) (fun t => decide (t.reg 8 = 0xC8 ∧ t.reg 9 = 0x55 ∧ t.reg 7 = 0)) = true := by decide
theorem test_write_r9 : nextIs (exec (.wrR9 0xC9) (regsSet [(10, 0x55)])) (fun t => decide (t.reg 9 = 0xC9 ∧ t.reg 10 = 0x55 ∧ t.reg 8 = 0)) = true := by decide
theorem test_write_r10 : nextIs (exec (.wrR10 0xCA) (regsSet [(11, 0x55)])) (fun t => decide (t.reg 10 = 0xCA ∧ t.reg 11 = 0x55 ∧ t.reg 9 = 0)) = true := by decide
theorem test_write_r11 : nextIs (exec (.wrR11 0xCB) (regsSet [(12, 0x55)])) (fun t => decide (t.reg 11 = 0xCB ∧ t.reg 12 = 0x55 ∧ t.reg 10 = 0)) = true := by decide
theorem test_write_r12 : nextIs (exec (.wrR12 0xCC) (regsSet [(13, 0x55)])) (fun t => decide (t.reg 12 = 0xCC ∧ t.reg 13 = 0x55 ∧ t.reg 11 = 0)) = true := by decide
theorem test_write_r13 : nextIs (exec (.wrR13 0xCD) (regsSet [(14, 0x55)])) (fun t => decide (t.reg 13 = 0xCD ∧ t.reg 14 = 0x55 ∧ t.reg 12 = 0)) = true := by decide
theorem test_write_r14 : nextIs (exec (.wrR14 0xCE) (regsSet [(15, 0x55)])) (fun t => decide (t.reg 14 = 0xCE ∧ t.reg 15 = 0x55 ∧ t.reg 13 = 0)) = true := by decide
theorem test_write_r15 : nextIs (exec (.wrR15 0xCF) (regsSet [(0, 0x55)])) (fun t => decide (t.reg 15 = 0xCF ∧ t.reg 0 = 0x55 ∧ t.reg 14 = 0)) = true := by decide
/-- V8.1, V8.9: a memory write in the bank's window leaves the bank alone. -/
theorem test_memw : (((State.initial ex).setMemByte ex 0x1E00 1).setMemByte ex 0x9000 0x55).mem = [(0x1E00, 1), (0x9000, 0x55)] ∧
    (((State.initial ex).setMemByte ex 0x9000 0x55).reg 0) = 0 := by decide
/-- Writing what an unlisted address reads as removes the entry. -/
theorem test_memw_canonical : (((State.initial ex).setMemByte ex 7 1).setMemByte ex 7 0).mem = [] := by decide
/-- V8.2: MODE 1 restarts the sequencing and keeps the bank. -/
theorem test_mode_accepted : (selectMode ex 1 (atCycle (regsSet [(15, 5)]) 70 311)).mode = .ntsc ∧
    (selectMode ex 1 (atCycle (regsSet [(15, 5)]) 70 311)).hc = 0 ∧ (selectMode ex 1 (atCycle (regsSet [(15, 5)]) 70 311)).vc = 0 ∧
    (selectMode ex 1 (atCycle (regsSet [(15, 5)]) 70 311)).reg 15 = 5 := by decide
/-- V8.3: MODE 4 is a ConfigError and changes nothing. -/
theorem test_mode_rejected : (selectMode ex 4 (atCycle (regsSet [(15, 5)]) 9 3)).reply = .configError 4 ∧
    (selectMode ex 4 (atCycle (regsSet [(15, 5)]) 9 3)).hc = 9 := by decide
/-- V8.7: RESET clears the bank and keeps MEM. -/
theorem test_reset : (reinitialise ex { regsSet [(4, 0xAA)] with mem := [(5, 6)], hc := 3, lfsr := 1 }).reg 4 = 0 ∧
    (reinitialise ex { regsSet [(4, 0xAA)] with mem := [(5, 6)], hc := 3, lfsr := 1 }).mem = [(5, 6)] ∧
    (reinitialise ex { regsSet [(4, 0xAA)] with mem := [(5, 6)], hc := 3, lfsr := 1 }).lfsr = 0xFFFF := by decide
/-- R436: the counter wraps. -/
theorem test_overrun_wraps : nextIs (exec .overrun { State.initial ex with overrun := 0xFFFFFFFF }) (fun t => decide (t.overrun = 0 ∧ t.hc = 0)) = true := by decide
/-- R438, V8.4. -/
theorem test_diag : nextIs (exec .diag { State.initial ex with due := #v[true, true, false, true], overrun := 2, mode := .ntsc }) (fun t => decide (t.reply = .diag ⟨2, .ntsc, #v[true, true, false, true]⟩ ∧ t.overrun = 2)) = true := by decide

/-! ## TICK under EX -/

/-- R137: pure red, green and blue, and R412's fields of one byte. -/
theorem test_rgb332 : rgb332 7 0 0 = 0xE0 ∧ rgb332 0 7 0 = 0x1C ∧ rgb332 0 0 3 = 0x03 ∧ pixelGreen 0b10101110 = 3 := by decide

/-- EX with vc incremented at cycle 40 and the visible window at cycles 45 to 47. -/
def exCut : Config := specConfig { exOpen with hcVcInc := fun _ => 40, hvisStart := fun _ => 45, hvisEnd := fun _ => 48 }

/-- The states of the window's three TICKs on a line, newest first. -/
def windowTicks (vc : BitVec 9) : List State := [47, 46, 45].map fun hc => atCycle (State.initial ex) hc vc

/-- R541, with MIN_LEAD_LINES 0: a line whose window has run is readable; in the middle of its next pass it is not. -/
theorem test_line_readable : (atCycle (State.initial ex) 48 7).lineReadable exCut (windowTicks 7) 7 = true ∧
    (atCycle (State.initial ex) 5 9).lineReadable exCut (windowTicks 7) 7 = true ∧
    (atCycle (State.initial ex) 46 7).lineReadable exCut
      (atCycle (State.initial ex) 45 7 :: atCycle (State.initial ex) 44 7 :: atCycle (State.initial ex) 43 6 :: windowTicks 7) 7 = false := by
  decide

/-- R541 and log entry 21: line 0, cut short after RESET before its window, is readable neither at once nor on the next line, but after its
next pass. -/
theorem test_line_cut_short : (State.initial ex).lineReadable exCut [] 0 = false ∧
    (atCycle (State.initial ex) 45 1).lineReadable exCut [atCycle (State.initial ex) 40 0, State.initial ex] 0 = false ∧
    (atCycle (State.initial ex) 48 0).lineReadable exCut (windowTicks 0 ++ [atCycle (State.initial ex) 40 0, State.initial ex]) 0 = true := by
  decide

/-- V2.1. -/
theorem test_tick_first : (tick ex (State.initial ex)).hc = 1 ∧ emitted (tick ex (State.initial ex)) = [0x8000, 0x100, 0x100, 0x100, 0x100] := by
  decide
/-- V2.2: the last cycle of a line; its last pixel word is truncated. -/
theorem test_tick_line_end : (tick ex (atCycle (regsSet [(2, 0x96)]) 70 0)).hc = 0 ∧ (tick ex (atCycle (regsSet [(2, 0x96)]) 70 0)).vc = 1 ∧
    (tick ex (atCycle (regsSet [(2, 0x96)]) 70 0)).lineParity = true ∧ (tick ex (atCycle (regsSet [(2, 0x96)]) 70 0)).hcc = 22 ∧
    emitted (tick ex (atCycle (regsSet [(2, 0x96)]) 70 0)) = [0x8046, 0x100, 0x100, 0x100, 0x200] := by decide
/-- V2.3, V2.4: line 285 is vertical sync and line 293 vertical blanking; neither has pixels. -/
theorem test_tick_blank_lines : emitted (tick ex (atCycle (State.initial ex) 0 285)) = [0x9000] ∧
    emitted (tick ex (atCycle (State.initial ex) 0 293)) = [0xA000] := by decide
/-- V2.5, V2.7: the frame ends; the field toggles only in interlaced NTSC. -/
theorem test_tick_frame_end : (tick ex (atCycle (State.initial ex) 70 311)).vc = 0 ∧ (tick ex (atCycle (State.initial ex) 70 311)).field = false ∧
    (tick ex (atCycle { regsSet [(0, 0x80)] with mode := .ntsc } 64 261)).vc = 0 ∧
    (tick ex (atCycle { regsSet [(0, 0x80)] with mode := .ntsc } 64 261)).field = true ∧
    (tick ex (atCycle { regsSet [] with mode := .ntsc } 64 261)).vc = 0 ∧
    (tick ex (atCycle { regsSet [] with mode := .ntsc } 64 261)).field = false := by decide
/-- V1.6, V1.7. -/
theorem test_tick_raster : (tick ex (atCycle (regsSet [(3, 0x2E)]) 0 1)).reg 3 = 0xAE ∧
    (tick ex (atCycle (State.initial ex) 0 300)).reg 4 = 0x96 ∧ (tick ex (atCycle (regsSet [(4, 0xAA)]) 1 300)).reg 4 = 0xAA := by decide
/-- R291, R292: REG[3] = 0x2E opens the matrix with VCC 23 on line 2 * ORIGIN_Y. -/
theorem test_tick_y_match : (tick ex (atCycle (regsSet [(1, 0x19), (3, 0x2E)]) 0 50)).fstate = .inMatrixY ∧
    (tick ex (atCycle (regsSet [(1, 0x19), (3, 0x2E)]) 0 50)).vcc = 23 ∧
    (tick ex (atCycle (regsSet [(1, 0x19), (3, 0x2E)]) 0 49)).fstate = .outsideMatrix := by decide
/-- R293, R295, R296: the X match and the delay states. -/
theorem test_tick_x_match : (tick ex (atCycle { regsSet [(0, 5)] with fstate := .inMatrixY } 5 4)).fstate = .matrixDly1 ∧
    (tick ex (atCycle { regsSet [(0, 5)] with fstate := .inMatrixY } 4 4)).fstate = .inMatrixY ∧
    (tick ex (atCycle { regsSet [] with fstate := .matrixDly1 } 6 4)).fstate = .matrixDly2 ∧
    (tick ex (atCycle { regsSet [] with fstate := .matrixDly3, hcc := 2 } 8 4)).fstate = .screenCode ∧
    (tick ex (atCycle { regsSet [] with fstate := .matrixDly3, hcc := 0 } 8 4)).fstate = .matrixLine := by decide
/-- R298's example: the code from MEM 0x1E03, the colour from MEM 0x9603. -/
theorem test_tick_screen_code :
    (tick ex { regsSet [(5, 0xF0), (2, 0x80)] with fstate := .screenCode, vmc := 3, mem := [(0x1E03, 0x41), (0x9603, 0xFA)] }).code = 0x41 ∧
    (tick ex { regsSet [(5, 0xF0), (2, 0x80)] with fstate := .screenCode, vmc := 3, mem := [(0x1E03, 0x41), (0x9603, 0xFA)] }).colr = 0xA := by
  decide
/-- P1: code 1's line 0 is at MEM 0x8008; V4.1's pixels are loaded. -/
theorem test_tick_char_data :
    (tick ex { regsSet [(5, 0xF0), (15, 0x1B)] with fstate := .charData, hcc := 1, code := 1, colr := 2, mem := [(0x8008, 0xA5)] }).pipe =
      #v[2, 1, 2, 1, 1, 2, 1, 2] ∧
    (tick ex { regsSet [(5, 0xF0), (15, 0x1B)] with fstate := .charData, hcc := 1, code := 1, colr := 2, mem := [(0x8008, 0xA5)] }).fstate =
      .matrixLine := by decide
/-- R263: the row's last line and a line before it, at the new line. -/
theorem test_tick_row_accounting :
    (tick ex (atCycle { regsSet [] with fstate := .matrixLine, cdc := 7, vcc := 2, vmc := 22, vmcl := 0 } 70 9)).vmcl = 22 ∧
    (tick ex (atCycle { regsSet [] with fstate := .matrixLine, cdc := 7, vcc := 2, vmc := 22, vmcl := 0 } 70 9)).vcc = 1 ∧
    (tick ex (atCycle { regsSet [] with fstate := .matrixLine, cdc := 6, vcc := 2, vmc := 22, vmcl := 0 } 70 9)).vmc = 0 ∧
    (tick ex (atCycle { regsSet [] with fstate := .matrixLine, cdc := 7, vcc := 1, vmc := 22, vmcl := 0 } 70 9)).fstate = .outsideMatrix := by
  decide
/-- V4.1 to V4.3, V4.5 and V4.6. -/
theorem test_decode_char : decodeChar (regsSet [(15, 0x1B)]) 0xA5 2 = #v[2, 1, 2, 1, 1, 2, 1, 2] ∧
    decodeChar (regsSet [(15, 0x13)]) 0xA5 2 = #v[1, 2, 1, 2, 2, 1, 2, 1] ∧
    decodeChar (regsSet [(15, 0x13)]) 0x00 2 = #v[2, 2, 2, 2, 2, 2, 2, 2] ∧
    decodeChar (regsSet [(15, 0x1B), (14, 0x50)]) 0x1B 0xA = #v[1, 1, 3, 3, 2, 2, 5, 5] ∧
    decodeChar (regsSet [(15, 0x13), (14, 0xA0)]) 0xE4 0xF = #v[10, 10, 7, 7, 3, 3, 1, 1] := by decide
/-- V5.2: line 1, parity 1; the fill of this TICK is not yet shown. -/
theorem test_tick_parity_words :
    emitted (tick ex (atCycle { regsSet [(15, 3)] with lineParity := true, pipe := #v[3, 3, 3, 3, 3, 3, 3, 3] } 0 1)) =
      [0x8800, 0x113, 0x113, 0x113, 0x113] := by decide
/-- R267: a test mode shows the test pattern. -/
theorem test_tick_test_mode : emitted (tick ex { State.initial ex with mode := .palTest }) = [0x8000, 0x108, 0x109, 0x10A, 0x10B] := by decide
/-- R410: the batch lands at columns fbcol to fbcol + 3 of the line, and fbcol advances. -/
theorem test_tick_framebuffer :
    (tick ex (atCycle { State.initial ex with fbcol := 8, pipe := #v[3, 0, 3, 4, 0, 0, 0, 0] } 2 1)).fb = [(292, 3), (294, 3), (295, 4)] ∧
    (tick ex (atCycle { State.initial ex with fbcol := 8, pipe := #v[3, 0, 3, 4, 0, 0, 0, 0] } 2 1)).fbcol = 12 := by decide
/-- V6.2. -/
theorem test_tick_audio : (tick ex (regsSet [(10, 0xFE), (14, 0x0F)])).ctr = #v[1, 127, 127, 127] ∧
    (tick ex (regsSet [(10, 0xFE), (14, 0x0F)])).sr = #v[1, 0, 0, 0] ∧
    (tick ex (regsSet [(10, 0xFE), (14, 0x0F)])).due = #v[true, true, true, true] ∧
    (tick ex (regsSet [(10, 0xFE), (14, 0x0F)])).audioLevel = 75 := by decide
/-- V6.9: all four channels enabled; the noise feedback bit is 0. -/
theorem test_tick_noise : (tick ex (regsSet [(10, 0xFF), (11, 0xFF), (12, 0xFF), (13, 0xFF), (14, 0x0F)])).sr = #v[1, 1, 1, 0] ∧
    (tick ex (regsSet [(10, 0xFF), (11, 0xFF), (12, 0xFF), (13, 0xFF), (14, 0x0F)])).lfsr = 0xFFFE ∧
    (tick ex (regsSet [(10, 0xFF), (11, 0xFF), (12, 0xFF), (13, 0xFF), (14, 0x0F)])).audioLevel = 90 := by decide
/-- A counter that is clocked between reloads only counts down, and the channel is not due. -/
theorem test_tick_audio_count : (tick ex { State.initial ex with ctr := #v[5, 6, 7, 8], ap := 8 }).ctr = #v[5, 5, 6, 7] ∧
    (tick ex { State.initial ex with ctr := #v[5, 6, 7, 8], ap := 8 }).due = #v[false, false, false, false] := by decide
/-- V6.7: a disabled noise step. -/
theorem test_lfsr_disabled : lfsrShift 0x1234 false = 0x2469 ∧ lfsrShift 0x2469 false = 0x48D3 := by decide

/-! ## Witnesses: states and operands that meet the hypotheses of each obligation together -/

/-- The state after reset with a list of registers written, in the machine's own configuration. -/
def resetWith (rs : List (RegIx × Byte)) : State := rs.foldl (fun s r => s.setReg r.1 r.2) State.reset

/-- For DecodingAnEncodedStimulusGivesItBack. -/
theorem witness_wellFormed : (Instr.wrR15 0x1B).wellFormed = true := by decide

/-- For EncodingADecodedWordGivesItBack. -/
theorem witness_decoded_word : decode 0x30123456 = .instr (.memw 0x1234 0x56) := by decide

/-- For DecoderRefusesExactlyTheReservedWords: the first reserved op, with nonzero fields, and the last op that is not reserved. -/
theorem witness_word_fields : (0x81234567 : Word).toNat = 8 * 2 ^ 28 + 1 * 2 ^ 24 + 0x2345 * 2 ^ 8 + 0x67 ∧
    (0x7FFFFFFF : Word).toNat = 7 * 2 ^ 28 + 15 * 2 ^ 24 + 65535 * 2 ^ 8 + 255 ∧ 15 < 16 ∧ 65535 < 65536 ∧ 255 < 256 := by decide

/-- For StepRunsTheDecodedStimulus. -/
theorem witness_step_runs : (State.reset.withFetchWord 32 0x60000000).stim = 0x60000000 :: [] ∧
    decode 0x60000000 = .instr .overrun := by decide

/-- For StepRefusesAWordOfNoStimulus: one word of each refusal. -/
theorem witness_step_refuses : (State.reset.withFetchWord 32 0x80000000).stim = 0x80000000 :: [] ∧
    decode 0x80000000 = .refused .reservedOp ∧ (State.reset.withFetchWord 32 0x00000001).stim = 0x00000001 :: [] ∧
    decode 0x00000001 = .refused .reservedBitsNonzero := by decide

/-- For StepWaitsWithoutAStimulus. -/
theorem witness_step_waits : State.reset.stim = [] := by decide

/-- For MemoryWriteStoresOneByte, at the last index, with another index beside it. -/
theorem witness_memory_canonical : State.reset.mem.wf hw.memInit = true ∧ (0xFFFE : MemIx) ≠ 0xFFFF := ⟨rfl, by decide⟩

/-- For AcceptedModeRestartsTheSequencing. -/
theorem witness_mode_accepted : hw.modeOk .pal = true := hw_wellFormed.modeInitOk

/-- For RejectedModeReturnsConfigErrorAndChangesNothing, each clause: the first code out of range, a configuration whose
revision check fails, and a ConfigError answered. -/
theorem witness_mode_rejected : 3 < (4 : Byte).toNat ∧ (specConfig { exOpen with modeOk := fun _ => false }).modeOk .ntsc = false ∧
    exec (.mode 4) State.reset = .next { State.reset with reply := .configError 4 } := ⟨by decide, rfl, rfl⟩

/-- For OverrunCountsTheOverrunsSinceReset: three words with a RESET between the OVERRUNs, and a fourth left behind them. -/
theorem witness_overrun_run :
    Host.Core.run Sys2Proof.core 3 { State.reset with stim := [0x60000000, 0x50000000, 0x60000000] ++ [0x70000000] } =
      .next { State.reset with overrun := 1, stim := [0x70000000], reply := .ok } := rfl

/-- For HostAccessesLeaveTheCoreAlone and the second clause of HorizontalCounterCountsTheCyclesOfTheLine. -/
theorem witness_host_access : exec (.wrR0 7) State.reset = .next ((State.reset.setReg 0 7).answer .ok) ∧ Instr.wrR0 7 ≠ .tick ∧
    Instr.wrR0 7 ≠ .reset ∧ ∀ m, Instr.wrR0 7 ≠ .mode m :=
  ⟨rfl, by decide, by decide, fun m h => by cases h⟩

/-- For RasterReadbackTakesTheLineOfTheCycle: the raster cycle itself, and the one after it in the counter's range. -/
theorem witness_raster_cycle :
    ({ State.reset with hc := BitVec.ofNat 7 (hw.hcRaster .pal) } : State).hc.toNat = hw.hcRaster .pal ∧
    ({ State.reset with hc := BitVec.ofNat 7 (hw.hcRaster .pal + 1) } : State).hc.toNat ≠ hw.hcRaster .pal ∧
    State.reset.standard = .pal := by
  have h : hw.hcRaster .pal < 71 := hw_wellFormed.hcRaster_lt .pal
  refine ⟨?_, ?_, rfl⟩ <;> simp only [BitVec.toNat_ofNat] <;> omega

/-- For LineClassesAndVisibleCycles: the boundary lines of both standards, under EX in NTSC. -/
theorem witness_line_classes : (284 : BitVec 9).toNat < 285 ∧ 285 ≤ (285 : BitVec 9).toNat ∧ (292 : BitVec 9).toNat < 293 ∧
    293 ≤ (293 : BitVec 9).toNat ∧ (252 : BitVec 9).toNat < ex.visEndNtsc ∧ ex.visEndNtsc ≤ (253 : BitVec 9).toNat ∧
    (255 : BitVec 9).toNat < ex.vsyncEndNtsc ∧ ex.vsyncEndNtsc ≤ (256 : BitVec 9).toNat := by decide

/-- For YMatchOpensTheMatrix: in the first and in the last cycle of a line. -/
theorem witness_y_match : State.reset.fstate = .outsideMatrix ∧ State.reset.vc.toNat / 2 = (State.reset.reg 1).toNat ∧
    ({ State.reset with hc := 70 } : State).fstate = .outsideMatrix ∧
    ({ State.reset with hc := 70 } : State).vc.toNat / 2 = (({ State.reset with hc := 70 } : State).reg 1).toNat ∧
    (70 : BitVec 7).toNat + 1 = lineCycles State.reset.standard := by decide

/-- For FetchStateFollowsTheTransitionTable, its clause on the rows without a side effect: each of them, before the last cycle. -/
theorem witness_no_side_effect : ({ State.reset with vc := 2 } : State).vc.toNat / 2 ≠ (State.reset.reg 1).toNat ∧
    ({ State.reset with vc := 2 } : State).fstate = .outsideMatrix ∧ ({ State.reset with fstate := .inMatrixY } : State).fstate = .inMatrixY ∧
    ({ State.reset with fstate := .inMatrixX } : State).fstate = .inMatrixX ∧
    ({ State.reset with fstate := .matrixDly3 } : State).fstate = .matrixDly3 ∧
    State.reset.hc.toNat + 1 ≠ lineCycles State.reset.standard := by decide

/-- For DelayStatesAdvanceOnePerTick, both states. -/
theorem witness_delay : ({ State.reset with fstate := .matrixDly1 } : State).fstate = .matrixDly1 ∧
    ({ State.reset with fstate := .matrixDly2 } : State).fstate = .matrixDly2 ∧
    State.reset.hc.toNat + 1 ≠ lineCycles State.reset.standard := by decide

/-- For MatrixLineRestsUntilTheNewLine, at the last cycle of a line and the one before it. -/
theorem witness_matrix_line : ({ State.reset with fstate := .matrixLine } : State).fstate = .matrixLine ∧
    (70 : BitVec 7).toNat + 1 = lineCycles State.reset.standard ∧ (69 : BitVec 7).toNat + 1 ≠ lineCycles State.reset.standard := by
  decide

/-- For RowAccountingAdvancesTheCell, its matched clauses: the last line of a short and of a tall row, and the line before each, with the
fetch cut off in CHAR_DATA. -/
theorem witness_row_accounting (h : Byte) (d : BitVec 4) (hd : (h, d) ∈ [(0, 7), (0, 6), (1, 15), (1, 14)]) :
    ∃ s : State, s.fstate = .charData ∧ s.hc.toNat + 1 = lineCycles s.standard ∧
      ¬ (s.hc.toNat = hw.hcVcInc s.standard ∧ s.frameLength ≤ s.vc.toNat + 1) ∧ s.reg 3 = h ∧ s.cdc = d ∧
      ((if (s.reg 3).getLsbD 0 then 16 else 8) ≤ s.cdc.toNat + 1 ↔ d = 7 ∨ d = 15) := by
  refine ⟨{ resetWith [(3, h)] with fstate := .charData, hc := 70, cdc := d }, rfl, rfl, ?_, rfl, rfl, ?_⟩
  · exact fun h => absurd (show 312 ≤ 0 + 1 from h.2) (by decide)
  · revert hd; revert h d; decide

/-- For RowAccountingAdvancesTheCell, its last clause: X has not matched; and an X match in the last cycle itself. -/
theorem witness_row_unmatched : ∃ s t : State, s.fstate = .inMatrixX ∧ s.hc.toNat + 1 = lineCycles s.standard ∧
    s.hc ≠ (s.reg 0).extractLsb' 0 7 ∧ t.fstate = .inMatrixX ∧ t.hc.toNat + 1 = lineCycles t.standard ∧
    t.hc = (t.reg 0).extractLsb' 0 7 :=
  ⟨{ State.reset with fstate := .inMatrixX, hc := 70 }, { resetWith [(0, 70)] with fstate := .inMatrixX, hc := 70 }, by decide⟩

/-- For ScreenCodeFetchLatchesCodeAndColour: R298's example. -/
theorem witness_screen_code : ∃ s : State, s.fstate = .screenCode ∧
    (0x3E03 : ChipAddr).toNat = (((s.reg 5).toNat / 16) * 1024 + (if (s.reg 2).getLsbD 7 then 512 else 0) + s.vmc.toNat) % 16384 ∧
    (0x1E03 : MemIx).toNat = (if (0x3E03 : ChipAddr).getLsbD 13 then 0 else 32768) + (0x3E03 : ChipAddr).toNat % 8192 ∧
    (0x9603 : MemIx).toNat = 0x9400 + (0x3E03 : ChipAddr).toNat % 1024 ∧ s.hc.toNat + 1 ≠ lineCycles s.standard :=
  ⟨{ resetWith [(5, 0xF0), (2, 0x80)] with fstate := .screenCode, vmc := 3 }, rfl, by decide, by decide, by decide, by decide⟩

/-- For CharDataFetchLoadsThePipeline: code 1, line 7 of a short cell, characters at va 0. -/
theorem witness_char_data : ∃ s : State, s.fstate = .charData ∧
    (15 : ChipAddr).toNat =
      (((s.reg 5).toNat % 16) * 1024 + s.code.toNat * (if (s.reg 3).getLsbD 0 then 16 else 8) + s.cdc.toNat) % 16384 ∧
    (0x800F : MemIx).toNat = (if (15 : ChipAddr).getLsbD 13 then 0 else 32768) + (15 : ChipAddr).toNat % 8192 ∧
    s.hc.toNat + 1 ≠ lineCycles s.standard :=
  ⟨{ resetWith [(5, 0xF0)] with fstate := .charData, code := 1, cdc := 7 }, rfl, by decide, by decide, by decide⟩

/-- For TickReadsOnlyTheFetchedCells: a memory that differs elsewhere agrees on the cells of either fetch. -/
theorem witness_other_memory (b : Byte) :
    Memory.read hw.memInit [(0, b)] (hw.vicToArray (screenAddr State.reset)).toNat =
      State.reset.mem.read hw.memInit (hw.vicToArray (screenAddr State.reset)).toNat ∧
    Memory.read hw.memInit [(0, b)] (colourIndex hw (screenAddr State.reset)).toNat =
      State.reset.mem.read hw.memInit (colourIndex hw (screenAddr State.reset)).toNat ∧
    Memory.read hw.memInit [(0, b)] (hw.vicToArray (charAddr State.reset)).toNat =
      State.reset.mem.read hw.memInit (hw.vicToArray (charAddr State.reset)).toNat := ⟨rfl, rfl, rfl⟩

/-- For OpenBusReadsReturnTheSentinel: every index unconnected, in either fetch state. -/
theorem witness_open_bus : ∃ (cfg : Config) (s t : State) (va : ChipAddr), cfg.openBus (cfg.vicToArray va) = true ∧
    cfg.openBus (colourIndex cfg va) = true ∧ s.fstate = .screenCode ∧ screenAddr s = va ∧ t.fstate = .charData ∧ charAddr t = va :=
  ⟨specConfig { exOpen with openBus := fun _ => true }, { State.reset with fstate := .screenCode },
    { State.reset with fstate := .charData }, 0, rfl, rfl, rfl, by decide, rfl, by decide⟩

/-- For FetchSequenceDependsOnPositionAndRegistersOnly: two states with different memories, pipelines and latches. -/
theorem witness_same_position : ∃ s t : State, s.mode = t.mode ∧ s.regs = t.regs ∧ s.hc = t.hc ∧ s.vc = t.vc ∧ s.fstate = t.fstate ∧
    s.hcc = t.hcc ∧ s.vcc = t.vcc ∧ s.cdc = t.cdc ∧ s.mem ≠ t.mem ∧ s.code ≠ t.code :=
  ⟨State.reset, { State.reset with mem := [(0, 1)], code := 1 }, by decide⟩

/-- For FetchSequenceRepeatsEveryFrame: vc incremented in the middle of the line, and at its end, where HCC stands at COLUMNS. -/
theorem witness_frame_start : ∃ (cfg : Config) (s : State), cfg.hcVcInc s.standard < lineCycles s.standard ∧
    cfg.hcVcInc s.standard + 1 ≠ lineCycles s.standard ∧ s.hc.toNat = (cfg.hcVcInc s.standard + 1) % lineCycles s.standard ∧
    s.vc = 0 ∧ s.fstate = .outsideMatrix ∧ ex.hcVcInc .pal + 1 = lineCycles .pal ∧
    ({ resetWith [(2, 22)] with hcc := 22 } : State).hc.toNat = (ex.hcVcInc .pal + 1) % lineCycles .pal ∧
    ({ resetWith [(2, 22)] with hcc := 22 } : State).hcc = ({ resetWith [(2, 22)] with hcc := 22 } : State).columns :=
  ⟨specConfig { exOpen with hcVcInc := fun _ => 40 }, { State.reset with hc := 41 }, by decide⟩

/-- For LineTakesItsCycles, at the last cycle of a line. -/
theorem witness_line_start : hw.WellFormed ∧ State.reset.hc = 0 ∧ 70 < lineCycles State.reset.standard :=
  ⟨hw_wellFormed, by decide, by decide⟩

/-- For FrameTakesItsTicks: one line, and the whole frame. -/
theorem witness_frame_words (n : Nat) (h : n ≤ 312) : ∃ s : State, s.hc = 0 ∧ s.vc = 0 ∧ s.standard = .pal ∧ n ≤ 312 ∧
    s.stim = List.replicate (71 * n) 0x00000000 :=
  ⟨{ State.reset with stim := List.replicate (71 * n) 0x00000000 }, rfl, rfl, rfl, h, rfl⟩

/-- For FirstCharacterFollowsTheXMatchBySixCycles: the last X at which all six cycles lie on the line. -/
theorem witness_x_match : ∃ s : State, s.fstate = .inMatrixX ∧ s.hc = s.originX ∧ s.hcc ≠ 0 ∧ s.hc.toNat + 6 < lineCycles s.standard ∧
    s.vc.toNat + 1 < s.frameLength :=
  ⟨{ resetWith [(0, 64)] with fstate := .inMatrixX, hc := 64, hcc := 2 }, by decide⟩

/-- For HiResDecodeMapsBitsToTwoColours and MulticolourDecodeMapsPairsToFourColours: the boundary colour nibbles. -/
theorem witness_colour_nibbles : (7 : BitVec 4).getLsbD 3 = false ∧ (8 : BitVec 4).getLsbD 3 = true := by decide

/-- For PipelineShiftsAndFillsWithTheBorder and BorderFillIsTheBatchTwoTicksLater. -/
theorem witness_no_character : State.reset.fstate ≠ .charData ∧ (tick ex (State.initial ex)).fstate ≠ .charData := by decide

/-- For TestPatternChangesOnlyTheOutputs. -/
theorem witness_test_mode : modeStandard .palTest = State.reset.standard ∧ modeTest .palTest = true := by decide

/-- For EncoderAppendsSyncWordsThenPixelWords, both standards. -/
theorem witness_standards : State.reset.standard = .pal ∧ ({ State.reset with mode := .ntscTest } : State).standard = .ntsc := by decide

/-- For EmittedWordsDependOnPositionPhaseAndBatchAlone: two states with different banks, counters and memories. -/
theorem witness_same_batch : ∃ s t : State, s.standard = t.standard ∧ s.hc = t.hc ∧ s.vc = t.vc ∧ s.lineParity = t.lineParity ∧
    s.field = t.field ∧ shownBatch ex s s.hc s.vc (pixelBatch s) = shownBatch ex t t.hc t.vc (pixelBatch t) ∧ s.regs ≠ t.regs ∧
    s.ctr ≠ t.ctr ∧ s.mem ≠ t.mem :=
  ⟨State.reset, { resetWith [(14, 15)] with ctr := #v[1, 2, 3, 4], mem := [(0, 1)] }, by decide⟩

/-- For FramebufferTakesTheBatchAtItsCoordinates; under EX the last cell of the buffer exists and the next column does not. -/
theorem witness_framebuffer : State.reset.fb.wf fbInit = true ∧ ((State.initial ex).fbCell ex 284 283).isSome = true ∧
    (State.initial ex).fbCell ex 284 284 = none := ⟨rfl, by decide, by decide⟩

/-- For CommandFieldsRoundTrip: a layout, at the largest value of each field. -/
theorem witness_layout : (⟨0, 0, 4, 4, 4, 8, 4⟩ : CmdLayout 16).WellFormed ∧ 15 < 2 ^ 4 := by
  refine ⟨⟨by decide, by decide, by decide, .inl (by decide), .inl (by decide), .inl (by decide), ?_, ?_, ?_⟩, by decide⟩ <;>
    exact fun i _ _ => BitVec.getLsbD_zero

/-- For AudioCountersCountDownAndReload: an unclocked channel, a clocked one above the terminal count, and one at it. -/
theorem witness_audio_clock : ({ State.reset with ap := 1 } : State).ap % hw.audioDiv[(0 : Channel)] ≠ hw.audioPhase[(0 : Channel)] ∧
    State.reset.ap % hw.audioDiv[(0 : Channel)] = hw.audioPhase[(0 : Channel)] ∧
    ({ State.reset with ctr := #v[1, 1, 1, 1] } : State).ctr[(0 : Channel)] ≠ hw.audioTerminal ∧
    State.reset.ctr[(0 : Channel)] = hw.audioTerminal := by
  refine ⟨?_, rfl, ?_, rfl⟩
  · show 1 % 16 ≠ 0; decide
  · show (1 : BitVec 7) ≠ 0; decide

/-- For ToneWaveformStepsWhenDue: the last tone channel. -/
theorem witness_tone_channel : (2 : Channel).val < 3 := by decide

/-- For NoiseStepsWhenDue: the noise channel disabled, and enabled after reset. -/
theorem witness_noise_feedback : (∃ s : State, (s.reg 13).getLsbD 7 = false ∧
      true = (if (s.reg 13).getLsbD 7 then s.lfsr.getLsbD 15 ^^ s.lfsr.getLsbD 14 ^^ s.lfsr.getLsbD 12 ^^ s.lfsr.getLsbD 3 else true)) ∧
    ∃ s : State, (s.reg 13).getLsbD 7 = true ∧
      false = (if (s.reg 13).getLsbD 7 then s.lfsr.getLsbD 15 ^^ s.lfsr.getLsbD 14 ^^ s.lfsr.getLsbD 12 ^^ s.lfsr.getLsbD 3 else true) :=
  ⟨⟨State.reset, by decide⟩, ⟨resetWith [(13, 0x80)], by decide⟩⟩

/-- For NoiseRegisterNeverEmptiesAndFillsWhenDisabled. -/
theorem witness_lfsr : (1 : BitVec 16) ≠ 0 ∧ lfsrShift 1 true = lfsrShift 1 true := ⟨by decide, rfl⟩

/-- For LegalStatesStayLegal: a state in the middle of a frame, with a stimulus pending. -/
theorem witness_legal_step : ({ State.reset with vc := 17, overrun := 4, stim := [0x60000000] } : State).Legal hw ∧
    step { State.reset with vc := 17, overrun := 4, stim := [0x60000000] } =
      .next { State.reset with vc := 17, overrun := 5, reply := .ok } := by
  refine ⟨⟨by decide, by decide, hw_wellFormed.modeInitOk, fun _ => rfl, Nat.zero_le _, by decide, hw_wellFormed.presc_pos, Nat.zero_le _,
    ?_, rfl, rfl, rfl, rfl⟩, rfl⟩
  intro w h
  cases h

/-- For AssemblyLinesHaveTheirWords: every operand at its largest value. -/
theorem witness_assembly_operands : 15 ≤ 15 ∧ 255 ≤ 255 ∧ 65535 ≤ 65535 := by decide

end Sys2Proof.Tests
end

section
/-! PROOFS. MEM in a TICK (20_memory.md R81): every pass but the fetch pass gives the same on any other memory, and the fetch
pass does so where the memories agree on the cells it reads. -/

namespace Sys2Proof.Machine

/-- The same core in front of another memory. -/
def State.withMem (s : State) (m : Memory) : State := { s with mem := m }

@[simp] theorem State.withMem_hc (s : State) (m : Memory) : (s.withMem m).hc = s.hc := rfl
@[simp] theorem State.withMem_vc (s : State) (m : Memory) : (s.withMem m).vc = s.vc := rfl
@[simp] theorem State.withMem_fstate (s : State) (m : Memory) : (s.withMem m).fstate = s.fstate := rfl

theorem State.withMem_ite (c : Prop) [Decidable c] (s t : State) (m : Memory) :
    (if c then s else t).withMem m = if c then s.withMem m else t.withMem m :=
  apply_ite (State.withMem · m) c s t

/-- The memory `m` holds what MEM holds in the cells that a TICK from `s` fetches (R81, R298, R300). -/
structure FetchesAlike (cfg : Config) (s : State) (m : Memory) : Prop where
  code : s.fstate = .screenCode →
    m.read cfg.memInit (cfg.vicToArray (screenAddr s)).toNat = s.mem.read cfg.memInit (cfg.vicToArray (screenAddr s)).toNat
  colour : s.fstate = .screenCode →
    (m.read cfg.memInit (colourIndex cfg (screenAddr s)).toNat).extractLsb' 0 4 =
      (s.mem.read cfg.memInit (colourIndex cfg (screenAddr s)).toNat).extractLsb' 0 4
  bitmap : s.fstate = .charData →
    m.read cfg.memInit (cfg.vicToArray (charAddr s)).toNat = s.mem.read cfg.memInit (cfg.vicToArray (charAddr s)).toNat

/-! ## The two reads -/

theorem vicRead_withMem {cfg : Config} {s : State} {m : Memory} {va : ChipAddr}
    (h : m.read cfg.memInit (cfg.vicToArray va).toNat = s.mem.read cfg.memInit (cfg.vicToArray va).toNat) :
    vicRead cfg (s.withMem m) va = vicRead cfg s va := by
  simp only [vicRead, State.memByte, State.withMem, h]

theorem colourRead_withMem {cfg : Config} {s : State} {m : Memory} {va : ChipAddr}
    (h : (m.read cfg.memInit (colourIndex cfg va).toNat).extractLsb' 0 4 =
      (s.mem.read cfg.memInit (colourIndex cfg va).toNat).extractLsb' 0 4) :
    colourRead cfg (s.withMem m) va = colourRead cfg s va := by
  simp only [colourRead, State.memByte, State.withMem, h]

/-! ## The passes before the horizontal pass -/

theorem pixelRefill_withMem (s : State) (m : Memory) : pixelRefill (s.withMem m) = (pixelRefill s).withMem m := rfl

theorem pixelBatch_withMem (s : State) (m : Memory) : pixelBatch (s.withMem m) = pixelBatch s := rfl

theorem shownBatch_withMem (cfg : Config) (hc0 : BitVec 7) (vc0 : BitVec 9) (batch : Vector Colour 4) (s : State) (m : Memory) :
    shownBatch cfg (s.withMem m) hc0 vc0 batch = shownBatch cfg s hc0 vc0 batch := rfl

theorem yCompare_withMem (vc0 : BitVec 9) (s : State) (m : Memory) :
    yCompare vc0 (s.withMem m) = (yCompare vc0 s).withMem m := by
  simp only [yCompare, State.withMem_ite]
  rfl

theorem xCompare_withMem (hc0 : BitVec 7) (s : State) (m : Memory) :
    xCompare hc0 (s.withMem m) = (xCompare hc0 s).withMem m := by
  simp only [xCompare, State.withMem_ite]
  rfl

theorem screenCodeFetch_withMem {cfg : Config} {s : State} {m : Memory} (h : FetchesAlike cfg s m)
    (hs : s.fstate = .screenCode) : screenCodeFetch cfg (s.withMem m) = (screenCodeFetch cfg s).withMem m := by
  have hcode : vicRead cfg (s.withMem m) (screenAddr (s.withMem m)) = vicRead cfg s (screenAddr s) := vicRead_withMem (h.code hs)
  have hcolr : colourRead cfg (s.withMem m) (screenAddr (s.withMem m)) = colourRead cfg s (screenAddr s) :=
    colourRead_withMem (h.colour hs)
  simp only [screenCodeFetch, hcode, hcolr]
  rfl

theorem charDataFetch_withMem {cfg : Config} {s : State} {m : Memory} (h : FetchesAlike cfg s m)
    (hs : s.fstate = .charData) : charDataFetch cfg (s.withMem m) = (charDataFetch cfg s).withMem m := by
  have hbyte : vicRead cfg (s.withMem m) (charAddr (s.withMem m)) = vicRead cfg s (charAddr s) := vicRead_withMem (h.bitmap hs)
  simp only [charDataFetch, hbyte]
  rfl

/-- The only pass that reads MEM: it does the same on a memory that agrees on the cells of its fetch state. -/
theorem fetchPass_withMem {cfg : Config} {s : State} {m : Memory} (hc0 : BitVec 7) (vc0 : BitVec 9) (h : FetchesAlike cfg s m) :
    fetchPass cfg hc0 vc0 (s.withMem m) = (fetchPass cfg hc0 vc0 s).withMem m := by
  simp only [fetchPass, State.withMem_fstate]
  cases hs : s.fstate with
  | outsideMatrix => exact yCompare_withMem vc0 s m
  | inMatrixY | inMatrixX => exact xCompare_withMem hc0 s m
  | screenCode => exact screenCodeFetch_withMem h hs
  | charData => exact charDataFetch_withMem h hs
  | matrixDly1 | matrixDly2 | matrixDly3 | matrixLine => rfl

theorem encoderStep_withMem (cfg : Config) (hc0 : BitVec 7) (vc0 : BitVec 9) (batch : Vector Colour 4) (s : State) (m : Memory) :
    encoderStep cfg hc0 vc0 batch (s.withMem m) = (encoderStep cfg hc0 vc0 batch s).withMem m := rfl

theorem framebufferStep_withMem (cfg : Config) (hc0 : BitVec 7) (vc0 : BitVec 9) (batch : Vector Colour 4) (s : State) (m : Memory) :
    framebufferStep cfg hc0 vc0 batch (s.withMem m) = (framebufferStep cfg hc0 vc0 batch s).withMem m := by
  simp only [framebufferStep, State.withMem_ite]
  rfl

theorem waveStep_withMem (i : Channel) (en : Bool) (s : State) (m : Memory) :
    waveStep i en (s.withMem m) = (waveStep i en s).withMem m := by
  simp only [waveStep, State.withMem_ite]
  rfl

theorem channelStep_withMem (cfg : Config) (s : State) (m : Memory) (i : Channel) :
    channelStep cfg (s.withMem m) i = (channelStep cfg s i).withMem m := by
  simp only [channelStep, State.withMem_ite, ← waveStep_withMem]
  rfl

theorem audioTick_withMem (cfg : Config) (s : State) (m : Memory) :
    audioTick cfg (s.withMem m) = (audioTick cfg s).withMem m := by
  have hloop : channels.foldl (channelStep cfg) (s.withMem m) = (channels.foldl (channelStep cfg) s).withMem m :=
    List.foldl_hom (State.withMem · m) fun t i => channelStep_withMem cfg t m i
  simp only [audioTick, hloop]
  rfl

theorem cyclePasses_withMem {cfg : Config} {s : State} {m : Memory} (h : FetchesAlike cfg s m) :
    cyclePasses cfg (s.withMem m) = (cyclePasses cfg s).withMem m := by
  -- PixelOut touches neither an address of the fetch nor MEM.
  have hfetch : fetchPass cfg s.hc s.vc ((pixelRefill s).withMem m) = (fetchPass cfg s.hc s.vc (pixelRefill s)).withMem m :=
    fetchPass_withMem s.hc s.vc ⟨h.code, h.colour, h.bitmap⟩
  simp only [cyclePasses, State.withMem_hc, State.withMem_vc, pixelRefill_withMem, pixelBatch_withMem, shownBatch_withMem,
    hfetch, encoderStep_withMem, framebufferStep_withMem, audioTick_withMem]

/-! ## The horizontal pass -/

theorem rasterPhase_withMem (cfg : Config) (hc0 : BitVec 7) (s : State) (m : Memory) :
    rasterPhase cfg hc0 (s.withMem m) = (rasterPhase cfg hc0 s).withMem m := by
  simp only [rasterPhase, State.withMem_ite]
  rfl

theorem verticalIncrement_withMem (s : State) (m : Memory) :
    verticalIncrement (s.withMem m) = (verticalIncrement s).withMem m := by
  simp only [verticalIncrement, State.withMem_ite]
  rfl

theorem verticalPhase_withMem (cfg : Config) (hc0 : BitVec 7) (s : State) (m : Memory) :
    verticalPhase cfg hc0 (s.withMem m) = (verticalPhase cfg hc0 s).withMem m := by
  simp only [verticalPhase, State.withMem_ite, ← verticalIncrement_withMem]
  rfl

theorem rowAccounting_withMem (s : State) (m : Memory) : rowAccounting (s.withMem m) = (rowAccounting s).withMem m := by
  simp only [rowAccounting, State.withMem_ite]
  rfl

theorem linePhase_withMem (hc0 : BitVec 7) (s : State) (m : Memory) :
    linePhase hc0 (s.withMem m) = (linePhase hc0 s).withMem m := by
  simp only [linePhase, newLine, State.withMem_ite, ← rowAccounting_withMem]
  rfl

theorem horizontalPass_withMem (cfg : Config) (hc0 : BitVec 7) (s : State) (m : Memory) :
    horizontalPass cfg hc0 (s.withMem m) = (horizontalPass cfg hc0 s).withMem m := by
  simp only [horizontalPass, rasterPhase_withMem, verticalPhase_withMem, linePhase_withMem]

/-! ## The TICK -/

/-- A TICK takes another memory through unchanged where that memory agrees on the fetched cells (R81). -/
theorem tick_withMem {cfg : Config} {s : State} {m : Memory} (h : FetchesAlike cfg s m) :
    tick cfg (s.withMem m) = (tick cfg s).withMem m := by
  simp only [tick, State.withMem_hc, cyclePasses_withMem h, horizontalPass_withMem]

/-- Settles O35: of the passes of a TICK only the fetch pass reads MEM, and none writes it. -/
theorem tickReadsOnlyTheFetchedCells : Obligations.TickReadsOnlyTheFetchedCells := by
  unfold Obligations.TickReadsOnlyTheFetchedCells
  intro s m hscreen hchar
  have hfetch : FetchesAlike hw s m := ⟨fun hs => (hscreen hs).1, fun hs => (hscreen hs).2, hchar⟩
  have htick : tick hw { s with mem := m } = { tick hw s with mem := m } := tick_withMem hfetch
  refine ⟨(tick hw s).answer .ok, rfl, tick_mem hw s, ?_⟩
  exact congrArg (fun t => Host.Outcome.next (t.answer .ok)) htick

end Sys2Proof.Machine
end

section
/-! PROOFS. The command-word macros (30_encoding.md R134, R135): a bit range of a word reads back the field placed in it,
and nothing of a field placed apart from it. -/

namespace Sys2Proof.Machine

/-! ## Bit ranges of a word -/

theorem rangesApart.symm {lo₁ w₁ lo₂ w₂ : Nat} (h : rangesApart lo₁ w₁ lo₂ w₂) : rangesApart lo₂ w₂ lo₁ w₁ :=
  Or.symm h

/-- The range of a field placed inside the word reads back the value placed there, truncated to the field's width. -/
theorem extractLsb'_ofNat_shiftLeft_same {w lo len : Nat} (v : Nat) (hin : lo + len ≤ w) :
    (BitVec.ofNat w v <<< lo).extractLsb' lo len = BitVec.ofNat len v := by
  refine BitVec.eq_of_getLsbD_eq fun i hi => ?_
  have hw : lo + i < w := by omega
  have hiw : i < w := by omega
  rw [BitVec.getLsbD_extractLsb', BitVec.getLsbD_shiftLeft, Nat.add_sub_cancel_left, BitVec.getLsbD_ofNat,
    BitVec.getLsbD_ofNat]
  simp [hi, hw, hiw]

/-- A range apart from a field's reads zeros where only that field is placed. -/
theorem extractLsb'_ofNat_shiftLeft_apart {w lo len lo' len' v : Nat} (h : rangesApart lo len lo' len') (hv : v < 2 ^ len') :
    (BitVec.ofNat w v <<< lo').extractLsb' lo len = 0 := by
  ext i hi
  rcases h with hbelow | habove
  · have hlt : lo + i < lo' := by omega
    simp [hlt]
  · have hbit : v.testBit (lo + i - lo') = false :=
      Nat.testBit_lt_two_pow (hv.trans_le (Nat.pow_le_pow_right Nat.two_pos (by omega)))
    simp [BitVec.getLsbD_ofNat, hbit]

theorem extractLsb'_eq_zero_of_zeroRange {w lo len : Nat} {base : BitVec w} (h : zeroRange base lo len) :
    base.extractLsb' lo len = 0 := by
  ext i hi
  simp [h (lo + i) (Nat.le_add_right lo i) (Nat.add_lt_add_left hi lo)]

/-! ## The three fields of a built word -/

section
variable {w : Nat} {l : CmdLayout w} {level delay count : Nat}

/-- What a range of a built word holds is made up of what it holds of the base and of each placed field. -/
theorem extractLsb'_cmdBuild {lo len : Nat} :
    (cmdBuild l level delay count).extractLsb' lo len =
      l.base.extractLsb' lo len ||| (BitVec.ofNat w level <<< l.lvlLo).extractLsb' lo len |||
        (BitVec.ofNat w delay <<< l.dlyLo).extractLsb' lo len ||| (BitVec.ofNat w count <<< l.cntLo).extractLsb' lo len := by
  simp only [cmdBuild, BitVec.extractLsb'_or]

theorem cmdLevel_cmdBuild (hl : l.WellFormed) (hlevel : level < 2 ^ l.lvlW) (hdelay : delay < 2 ^ l.dlyW)
    (hcount : count < 2 ^ l.cntW) : cmdLevel l (cmdBuild l level delay count) = level := by
  simp [cmdLevel, extractLsb'_cmdBuild, extractLsb'_eq_zero_of_zeroRange hl.lvlZero,
    extractLsb'_ofNat_shiftLeft_same level hl.lvlInside, extractLsb'_ofNat_shiftLeft_apart hl.lvlDly hdelay,
    extractLsb'_ofNat_shiftLeft_apart hl.lvlCnt hcount, Nat.mod_eq_of_lt hlevel]

theorem cmdDelay_cmdBuild (hl : l.WellFormed) (hlevel : level < 2 ^ l.lvlW) (hdelay : delay < 2 ^ l.dlyW)
    (hcount : count < 2 ^ l.cntW) : cmdDelay l (cmdBuild l level delay count) = delay := by
  simp [cmdDelay, extractLsb'_cmdBuild, extractLsb'_eq_zero_of_zeroRange hl.dlyZero,
    extractLsb'_ofNat_shiftLeft_apart hl.lvlDly.symm hlevel, extractLsb'_ofNat_shiftLeft_same delay hl.dlyInside,
    extractLsb'_ofNat_shiftLeft_apart hl.dlyCnt hcount, Nat.mod_eq_of_lt hdelay]

theorem cmdCount_cmdBuild (hl : l.WellFormed) (hlevel : level < 2 ^ l.lvlW) (hdelay : delay < 2 ^ l.dlyW)
    (hcount : count < 2 ^ l.cntW) : cmdCount l (cmdBuild l level delay count) = count := by
  simp [cmdCount, extractLsb'_cmdBuild, extractLsb'_eq_zero_of_zeroRange hl.cntZero,
    extractLsb'_ofNat_shiftLeft_apart hl.lvlCnt.symm hlevel, extractLsb'_ofNat_shiftLeft_apart hl.dlyCnt.symm hdelay,
    extractLsb'_ofNat_shiftLeft_same count hl.cntInside, Nat.mod_eq_of_lt hcount]

end

/-- Settles O50: each field's range is zero in the base and apart from the other two fields, so it holds that field alone. -/
theorem commandFieldsRoundTrip : Obligations.CommandFieldsRoundTrip := by
  unfold Obligations.CommandFieldsRoundTrip
  refine ⟨fun w l level delay count hl hlevel hdelay hcount => ?_, hw_wellFormed.layout⟩
  rw [cmdLevel_cmdBuild hl hlevel hdelay hcount, cmdDelay_cmdBuild hl hlevel hdelay hcount,
    cmdCount_cmdBuild hl hlevel hdelay hcount]

end Sys2Proof.Machine
end

section
/-! PROOFS. The registers R6 to R9 (40_register_bank.md R206 to R209, R226 to R229): every pass of a TICK does the same
whatever one of them holds and keeps its byte, so only the host's RD and WR reach them. -/

namespace Sys2Proof

/-! ## The words of RD and WR -/

/-- The word of a WR row is the row's own word with the operand in the low byte (R120, R121). -/
theorem packWord_eq_or_setWidth (op r : BitVec 4) (a : MemIx) (d : Byte) :
    packWord op r a d = packWord op r a 0 ||| d.setWidth 32 := by
  refine BitVec.eq_of_getLsbD_eq fun i hi => ?_
  rw [BitVec.getLsbD_or]
  simp only [packWord, BitVec.getLsbD_append, BitVec.getLsbD_setWidth, hi]
  by_cases hlow : i < 8
  · simp [hlow]
  · simp [hlow, BitVec.getLsbD_of_ge d i (Nat.le_of_not_lt hlow)]

end Sys2Proof

namespace Sys2Proof.Machine

/-! ## RD and WR of the register that a register field selects -/

theorem exec_rdInstr (n : RegIx) (s : State) : exec (rdInstr (BitVec.ofFin n)) s = readRegister n s := by
  fin_cases n <;> rfl

theorem exec_wrInstr (n : RegIx) (d : Byte) (s : State) :
    exec (wrInstr (BitVec.ofFin n) d) s = writeRegister n d s := by
  fin_cases n <;> rfl

/-- A register that was just written answers the written byte (R241, R539). -/
theorem readRegister_setReg_same (n : RegIx) (d : Byte) (s : State) (r : Reply) :
    readRegister n ((s.setReg n d).answer r) = .next ((s.setReg n d).answer (.byte d)) := by
  rw [readRegister, State.answer_reg, State.reg_setReg_same]
  rfl

/-- Every register is 0 after RESET (R64; decision D37). -/
theorem reg_reset (n : RegIx) : State.reset.reg n = 0 := by
  fin_cases n <;> rfl

/-! ## Two writes of the bank -/

theorem State.setReg_comm (s : State) {m n : RegIx} (w v : Byte) (h : m ≠ n) :
    (s.setReg n v).setReg m w = (s.setReg m w).setReg n v := by
  simp only [State.setReg, Vector.set_comm w v (Fin.val_ne_of_ne h)]

theorem State.setReg_ite (c : Prop) [Decidable c] (s t : State) (n : RegIx) (v : Byte) :
    (if c then s else t).setReg n v = if c then s.setReg n v else t.setReg n v :=
  apply_ite (State.setReg · n v) c s t

/-- R6 to R9: light-pen X and Y, pot X and Y, which no core rule reads (R206 to R209). -/
abbrev HostOnly (n : RegIx) : Prop := 6 ≤ n.val ∧ n.val ≤ 9

/-- The channels' registers are R10 to R13 (R59). -/
theorem not_hostOnly_channelReg (i : Channel) : ¬ HostOnly (channelReg i) := by
  simp only [HostOnly, channelReg]
  omega

section
variable {n : RegIx} (hn : HostOnly n) (cfg : Config) (s : State) (v : Byte)
include hn

/-! ## What the core reads of the bank -/

theorem ne_of_not_hostOnly {m : RegIx} (hm : ¬ HostOnly m) : m ≠ n :=
  fun e => hm (e ▸ hn)

theorem reg_setReg_hostOnly (m : RegIx) (hm : ¬ HostOnly m) : (s.setReg n v).reg m = s.reg m :=
  State.reg_setReg_other s n m v (ne_of_not_hostOnly hn hm)

theorem interlace_setReg : (s.setReg n v).interlace = s.interlace := by
  simp only [State.interlace, reg_setReg_hostOnly hn s v 0 (by decide)]

theorem frameLength_setReg : (s.setReg n v).frameLength = s.frameLength := by
  simp only [State.frameLength, State.setReg_standard, interlace_setReg hn]

theorem originX_setReg : (s.setReg n v).originX = s.originX := by
  simp only [State.originX, reg_setReg_hostOnly hn s v 0 (by decide)]

theorem originY_setReg : (s.setReg n v).originY = s.originY := by
  simp only [State.originY, reg_setReg_hostOnly hn s v 1 (by decide)]

theorem screenVa9_setReg : (s.setReg n v).screenVa9 = s.screenVa9 := by
  simp only [State.screenVa9, reg_setReg_hostOnly hn s v 2 (by decide)]

theorem columns_setReg : (s.setReg n v).columns = s.columns := by
  simp only [State.columns, reg_setReg_hostOnly hn s v 2 (by decide)]

theorem rows_setReg : (s.setReg n v).rows = s.rows := by
  simp only [State.rows, reg_setReg_hostOnly hn s v 3 (by decide)]

theorem tall_setReg : (s.setReg n v).tall = s.tall := by
  simp only [State.tall, reg_setReg_hostOnly hn s v 3 (by decide)]

theorem cellHeight_setReg : (s.setReg n v).cellHeight = s.cellHeight := by
  simp only [State.cellHeight, tall_setReg hn]

theorem screenBase_setReg : (s.setReg n v).screenBase = s.screenBase := by
  simp only [State.screenBase, reg_setReg_hostOnly hn s v 5 (by decide)]

theorem charBase_setReg : (s.setReg n v).charBase = s.charBase := by
  simp only [State.charBase, reg_setReg_hostOnly hn s v 5 (by decide)]

theorem channelEn_setReg (i : Channel) : (s.setReg n v).channelEn i = s.channelEn i := by
  simp only [State.channelEn, reg_setReg_hostOnly hn s v (channelReg i) (not_hostOnly_channelReg i)]

theorem channelFreq_setReg (i : Channel) : (s.setReg n v).channelFreq i = s.channelFreq i := by
  simp only [State.channelFreq, reg_setReg_hostOnly hn s v (channelReg i) (not_hostOnly_channelReg i)]

theorem auxColour_setReg : (s.setReg n v).auxColour = s.auxColour := by
  simp only [State.auxColour, reg_setReg_hostOnly hn s v 14 (by decide)]

theorem volume_setReg : (s.setReg n v).volume = s.volume := by
  simp only [State.volume, reg_setReg_hostOnly hn s v 14 (by decide)]

theorem bgColour_setReg : (s.setReg n v).bgColour = s.bgColour := by
  simp only [State.bgColour, reg_setReg_hostOnly hn s v 15 (by decide)]

theorem normal_setReg : (s.setReg n v).normal = s.normal := by
  simp only [State.normal, reg_setReg_hostOnly hn s v 15 (by decide)]

theorem borderColour_setReg : (s.setReg n v).borderColour = s.borderColour := by
  simp only [State.borderColour, reg_setReg_hostOnly hn s v 15 (by decide)]

/-! ## The passes before the horizontal pass -/

theorem pixelRefill_setReg : pixelRefill (s.setReg n v) = (pixelRefill s).setReg n v := by
  simp only [pixelRefill, borderColour_setReg hn]
  rfl

theorem yCompare_setReg (vc0 : BitVec 9) : yCompare vc0 (s.setReg n v) = (yCompare vc0 s).setReg n v := by
  simp only [yCompare, matrixOpen, originY_setReg hn, rows_setReg hn, State.setReg_ite]
  rfl

theorem xCompare_setReg (hc0 : BitVec 7) : xCompare hc0 (s.setReg n v) = (xCompare hc0 s).setReg n v := by
  simp only [xCompare, originX_setReg hn, State.setReg_ite]
  rfl

theorem screenAddr_setReg : screenAddr (s.setReg n v) = screenAddr s := by
  simp only [screenAddr, screenBase_setReg hn, screenVa9_setReg hn, State.setReg_vmc]

theorem charAddr_setReg : charAddr (s.setReg n v) = charAddr s := by
  simp only [charAddr, charBase_setReg hn, cellHeight_setReg hn, State.setReg_code, State.setReg_cdc]

theorem decodeChar_setReg (b : Byte) (colr : BitVec 4) : decodeChar (s.setReg n v) b colr = decodeChar s b colr := by
  simp only [decodeChar, bgColour_setReg hn, borderColour_setReg hn, auxColour_setReg hn, normal_setReg hn]

theorem screenCodeFetch_setReg : screenCodeFetch cfg (s.setReg n v) = (screenCodeFetch cfg s).setReg n v := by
  simp only [screenCodeFetch, screenAddr_setReg hn]
  rfl

theorem charDataFetch_setReg : charDataFetch cfg (s.setReg n v) = (charDataFetch cfg s).setReg n v := by
  simp only [charDataFetch, charAddr_setReg hn, decodeChar_setReg hn]
  rfl

theorem fetchPass_setReg (hc0 : BitVec 7) (vc0 : BitVec 9) :
    fetchPass cfg hc0 vc0 (s.setReg n v) = (fetchPass cfg hc0 vc0 s).setReg n v := by
  simp only [fetchPass, State.setReg_fstate]
  cases s.fstate with
  | outsideMatrix => exact yCompare_setReg hn s v vc0
  | inMatrixY | inMatrixX => exact xCompare_setReg hn s v hc0
  | screenCode => exact screenCodeFetch_setReg hn cfg s v
  | charData => exact charDataFetch_setReg hn cfg s v
  | matrixDly1 | matrixDly2 | matrixDly3 | matrixLine => rfl

omit hn in
theorem framebufferStep_setReg (hc0 : BitVec 7) (vc0 : BitVec 9) (batch : Vector Colour 4) :
    framebufferStep cfg hc0 vc0 batch (s.setReg n v) = (framebufferStep cfg hc0 vc0 batch s).setReg n v := by
  simp only [framebufferStep, State.setReg_ite]
  rfl

omit hn in
theorem waveStep_setReg (i : Channel) (en : Bool) : waveStep i en (s.setReg n v) = (waveStep i en s).setReg n v := by
  simp only [waveStep, State.setReg_ite]
  rfl

theorem channelStep_setReg (i : Channel) : channelStep cfg (s.setReg n v) i = (channelStep cfg s i).setReg n v := by
  simp only [channelStep, channelEn_setReg hn, channelFreq_setReg hn, State.setReg_ite, ← waveStep_setReg]
  rfl

theorem mixLevel_setReg : mixLevel cfg (s.setReg n v) = mixLevel cfg s := by
  simp only [mixLevel, channelSum, channelOut, channelEn_setReg hn, volume_setReg hn]
  rfl

theorem mixDown_setReg : mixDown cfg (s.setReg n v) = (mixDown cfg s).setReg n v := by
  simp only [mixDown, mixLevel_setReg hn]
  rfl

theorem audioTick_setReg : audioTick cfg (s.setReg n v) = (audioTick cfg s).setReg n v := by
  have hloop : channels.foldl (channelStep cfg) (s.setReg n v) = (channels.foldl (channelStep cfg) s).setReg n v :=
    List.foldl_hom (State.setReg · n v) fun t i => channelStep_setReg hn cfg t v i
  simp only [audioTick, hloop, ← mixDown_setReg hn]
  rfl

theorem cyclePasses_setReg : cyclePasses cfg (s.setReg n v) = (cyclePasses cfg s).setReg n v := by
  -- PixelOut's batch, the test pattern and the encoder read the pipeline, the mode and the counters, never the bank.
  simp only [cyclePasses, State.setReg_hc, State.setReg_vc, pixelRefill_setReg hn, fetchPass_setReg hn,
    ← audioTick_setReg hn, ← framebufferStep_setReg]
  rfl

/-! ## The horizontal pass -/

/-- The raster update reads R3 and writes R3 and R4, so it commutes with a write of R6 to R9 (R258). -/
theorem rasterUpdate_setReg : rasterUpdate (s.setReg n v) = (rasterUpdate s).setReg n v := by
  have h3 : 3 ≠ n := ne_of_not_hostOnly hn (by decide)
  have h4 : 4 ≠ n := ne_of_not_hostOnly hn (by decide)
  simp only [rasterUpdate, State.setReg_vc, reg_setReg_hostOnly hn s v 3 (by decide), State.setReg_comm _ _ _ h4,
    State.setReg_comm _ _ _ h3]

theorem rasterPhase_setReg (hc0 : BitVec 7) : rasterPhase cfg hc0 (s.setReg n v) = (rasterPhase cfg hc0 s).setReg n v := by
  simp only [rasterPhase, rasterUpdate_setReg hn, State.setReg_ite, State.setReg_standard]

theorem frameStart_setReg : frameStart (s.setReg n v) = (frameStart s).setReg n v := by
  simp only [frameStart, interlace_setReg hn]
  rfl

theorem verticalIncrement_setReg : verticalIncrement (s.setReg n v) = (verticalIncrement s).setReg n v := by
  simp only [verticalIncrement, frameLength_setReg hn, State.setReg_ite, ← frameStart_setReg hn]
  rfl

theorem verticalPhase_setReg (hc0 : BitVec 7) :
    verticalPhase cfg hc0 (s.setReg n v) = (verticalPhase cfg hc0 s).setReg n v := by
  simp only [verticalPhase, verticalIncrement_setReg hn, State.setReg_ite, State.setReg_standard]

theorem rowAccounting_setReg : rowAccounting (s.setReg n v) = (rowAccounting s).setReg n v := by
  simp only [rowAccounting, cellHeight_setReg hn, State.setReg_ite]
  rfl

theorem lineReload_setReg : lineReload (s.setReg n v) = (lineReload s).setReg n v := by
  simp only [lineReload, columns_setReg hn]
  rfl

theorem newLine_setReg : newLine (s.setReg n v) = (newLine s).setReg n v := by
  simp only [newLine, lineReload_setReg hn, rowAccounting_setReg hn]

theorem linePhase_setReg (hc0 : BitVec 7) : linePhase hc0 (s.setReg n v) = (linePhase hc0 s).setReg n v := by
  simp only [linePhase, State.setReg_ite, ← newLine_setReg hn]
  rfl

theorem horizontalPass_setReg (hc0 : BitVec 7) :
    horizontalPass cfg hc0 (s.setReg n v) = (horizontalPass cfg hc0 s).setReg n v := by
  simp only [horizontalPass, rasterPhase_setReg hn, verticalPhase_setReg hn, linePhase_setReg hn]

/-! ## The TICK -/

/-- A TICK does the same whatever R6 to R9 hold (R226 to R229). -/
theorem tick_setReg : tick cfg (s.setReg n v) = (tick cfg s).setReg n v := by
  simp only [tick, State.setReg_hc, cyclePasses_setReg hn, horizontalPass_setReg hn]

/-- A TICK leaves R6 to R9 alone (R206 to R209). -/
theorem tick_reg_hostOnly : (tick cfg s).reg n = s.reg n := by
  have h3 : 3 ≠ n := ne_of_not_hostOnly hn (by decide)
  have h4 : 4 ≠ n := ne_of_not_hostOnly hn (by decide)
  calc (tick cfg s).reg n
      = (rasterPhase cfg s.hc (cyclePasses cfg s)).reg n := State.reg_congr (tick_regs cfg s) n
    _ = (cyclePasses cfg s).reg n := rasterPhase_reg_other cfg s.hc _ n h3.symm h4.symm
    _ = s.reg n := State.reg_congr (cyclePasses_regs cfg s) n

/-! ## One register of the four -/

/-- What R206 to R209 and R226 to R229 say of one of the four registers. -/
theorem hostOnly_register (d : Byte) :
    encode (wrInstr (BitVec.ofFin n) d) = packWord 2 (BitVec.ofFin n) 0 0 ||| d.setWidth 32 ∧
    encode (rdInstr (BitVec.ofFin n)) = packWord 1 (BitVec.ofFin n) 0 0 ∧
    exec (wrInstr (BitVec.ofFin n) d) s = .next ((s.setReg n d).answer .ok) ∧
    exec (rdInstr (BitVec.ofFin n)) s = .next (s.answer (.byte (s.reg n))) ∧
    exec (rdInstr (BitVec.ofFin n)) ((s.setReg n d).answer .ok) = .next ((s.setReg n d).answer (.byte d)) ∧
    exec (rdInstr (BitVec.ofFin n)) State.reset = .next (State.reset.answer (.byte 0)) ∧
    ∃ t, exec .tick s = .next t ∧ exec .tick (s.setReg n d) = .next (t.setReg n d) ∧ t.reg n = s.reg n := by
  refine ⟨?_, encode_rdInstr _, exec_wrInstr n d s, exec_rdInstr n s, ?_, ?_, (tick hw s).answer .ok, rfl, ?_,
    tick_reg_hostOnly hn hw s⟩
  · rw [encode_wrInstr, packWord_eq_or_setWidth]
  · rw [exec_rdInstr, readRegister_setReg_same]
  · rw [exec_rdInstr, readRegister, reg_reset]
  · exact congrArg (fun t => Host.Outcome.next (t.answer .ok)) (tick_setReg hn hw s d)

end

/-- Settles O12: R6 to R9 are answered and stored like any register, and a TICK commutes with a write of one of them. -/
theorem lightPenAndPotRegistersAreTheHostsAlone : Obligations.LightPenAndPotRegistersAreTheHostsAlone := by
  unfold Obligations.LightPenAndPotRegistersAreTheHostsAlone
  intro s d
  exact ⟨hostOnly_register (n := 6) (by decide) s d, hostOnly_register (n := 7) (by decide) s d,
    hostOnly_register (n := 8) (by decide) s d, hostOnly_register (n := 9) (by decide) s d⟩

end Sys2Proof.Machine
end

section
/-! PROOFS. The horizontal counter (41_cycle_tick.md R259): a stimulus by what it does rather than by its row of the opcode
table, the state each host access leaves, and the counter in a TICK and in a host access. -/

namespace Sys2Proof

/-- A stimulus by what it does: the sixteen RD rows are one case, and the sixteen WR rows another (R121). -/
theorem Instr.byOperation {motive : Instr → Prop} (tick : motive .tick)
    (rd : ∀ n : Fin 16, motive (rdInstr (BitVec.ofFin n))) (wr : ∀ (n : Fin 16) (d : Byte), motive (wrInstr (BitVec.ofFin n) d))
    (memw : ∀ (a : MemIx) (d : Byte), motive (.memw a d)) (mode : ∀ m : Byte, motive (.mode m)) (reset : motive .reset)
    (overrun : motive .overrun) (diag : motive .diag) : ∀ i : Instr, motive i
  | .tick => tick
  | .rdR0 => rd 0 | .rdR1 => rd 1 | .rdR2 => rd 2 | .rdR3 => rd 3
  | .rdR4 => rd 4 | .rdR5 => rd 5 | .rdR6 => rd 6 | .rdR7 => rd 7
  | .rdR8 => rd 8 | .rdR9 => rd 9 | .rdR10 => rd 10 | .rdR11 => rd 11
  | .rdR12 => rd 12 | .rdR13 => rd 13 | .rdR14 => rd 14 | .rdR15 => rd 15
  | .wrR0 d => wr 0 d | .wrR1 d => wr 1 d | .wrR2 d => wr 2 d | .wrR3 d => wr 3 d
  | .wrR4 d => wr 4 d | .wrR5 d => wr 5 d | .wrR6 d => wr 6 d | .wrR7 d => wr 7 d
  | .wrR8 d => wr 8 d | .wrR9 d => wr 9 d | .wrR10 d => wr 10 d | .wrR11 d => wr 11 d
  | .wrR12 d => wr 12 d | .wrR13 d => wr 13 d | .wrR14 d => wr 14 d | .wrR15 d => wr 15 d
  | .memw a d => memw a d
  | .mode m => mode m
  | .reset => reset
  | .overrun => overrun
  | .diag => diag

end Sys2Proof

namespace Sys2Proof.Machine

/-- `HostAccess s i t`: `i` is a stimulus other than TICK, MODE and RESET, and `t` is the state it leaves from `s`. -/
inductive HostAccess (s : State) : Instr → State → Prop where
  | rd (n : RegIx) : HostAccess s (rdInstr (BitVec.ofFin n)) (s.answer (.byte (s.reg n)))
  | wr (n : RegIx) (d : Byte) : HostAccess s (wrInstr (BitVec.ofFin n) d) ((s.setReg n d).answer .ok)
  | memw (a : MemIx) (d : Byte) : HostAccess s (.memw a d) ((s.setMemByte hw a d).answer .ok)
  | overrun : HostAccess s .overrun ((countOverrun s).answer .ok)
  | diag : HostAccess s .diag (s.answer (.diag (diagRecord s)))

/-- Every stimulus but TICK, MODE and RESET is a host access. -/
theorem hostAccess_of_exec {i : Instr} {s t : State} (h : exec i s = .next t) (htick : i ≠ .tick) (hreset : i ≠ .reset)
    (hmode : ∀ m, i ≠ .mode m) : HostAccess s i t := by
  cases i using Instr.byOperation with
  | tick => exact absurd rfl htick
  | reset => exact absurd rfl hreset
  | mode m => exact absurd rfl (hmode m)
  | rd n =>
    rw [exec_rdInstr] at h
    cases h
    exact .rd n
  | wr n d =>
    rw [exec_wrInstr] at h
    cases h
    exact .wr n d
  | memw a d =>
    cases h
    exact .memw a d
  | overrun =>
    cases h
    exact .overrun
  | diag =>
    cases h
    exact .diag

/-- A host access writes a register, a byte of MEM, the overrun counter or nothing, and the reply, never the horizontal counter. -/
theorem HostAccess.hc_eq {i : Instr} {s t : State} (h : HostAccess s i t) : t.hc = s.hc := by
  cases h with
  | rd n => exact State.answer_hc s _
  | wr n d => exact State.setReg_hc s n d
  | memw a d => exact State.setMemByte_hc hw s a d
  | overrun => rfl
  | diag => exact State.answer_hc s _

/-- Settles O23: a TICK's line phase steps the counter and wraps it, and no host access reaches it. -/
theorem horizontalCounterCountsTheCyclesOfTheLine : Obligations.HorizontalCounterCountsTheCyclesOfTheLine := by
  unfold Obligations.HorizontalCounterCountsTheCyclesOfTheLine
  constructor
  · intro s
    exact ⟨(tick hw s).answer .ok, rfl, tick_hc hw s⟩
  · intro i s t h htick hreset hmode
    exact (hostAccess_of_exec h htick hreset hmode).hc_eq

end Sys2Proof.Machine
end

section
/-! PROOFS. The fetch machine in a TICK (42_fetch_fsm.md): what a TICK leaves of the fetch pass's result, within a line and in its
last cycle, and the states in which the fetch pass does no more than move the fetch state (R295, R301). -/

namespace Sys2Proof.Machine

/-! ## The fetch pass in the three states without a side effect of their own -/

theorem fetchPass_matrixDly1 (cfg : Config) (hc0 : BitVec 7) (vc0 : BitVec 9) {s : State} (h : s.fstate = .matrixDly1) :
    fetchPass cfg hc0 vc0 s = { s with fstate := .matrixDly2 } := by
  simp only [fetchPass, h]

theorem fetchPass_matrixDly2 (cfg : Config) (hc0 : BitVec 7) (vc0 : BitVec 9) {s : State} (h : s.fstate = .matrixDly2) :
    fetchPass cfg hc0 vc0 s = { s with fstate := .matrixDly3 } := by
  simp only [fetchPass, h]

theorem fetchPass_matrixLine (cfg : Config) (hc0 : BitVec 7) (vc0 : BitVec 9) {s : State} (h : s.fstate = .matrixLine) :
    fetchPass cfg hc0 vc0 s = s := by
  simp only [fetchPass, h]

/-! ## The passes after the fetch pass leave its fields alone -/

section
variable (cfg : Config) (s : State)

@[simp] theorem cyclePasses_fstate :
    (cyclePasses cfg s).fstate = (fetchPass cfg s.hc s.vc (pixelRefill s)).fstate := by simp [cyclePasses]
@[simp] theorem cyclePasses_hcc :
    (cyclePasses cfg s).hcc = (fetchPass cfg s.hc s.vc (pixelRefill s)).hcc := by simp [cyclePasses]
@[simp] theorem cyclePasses_vcc :
    (cyclePasses cfg s).vcc = (fetchPass cfg s.hc s.vc (pixelRefill s)).vcc := by simp [cyclePasses]
@[simp] theorem cyclePasses_cdc :
    (cyclePasses cfg s).cdc = (fetchPass cfg s.hc s.vc (pixelRefill s)).cdc := by simp [cyclePasses]
@[simp] theorem cyclePasses_vmc :
    (cyclePasses cfg s).vmc = (fetchPass cfg s.hc s.vc (pixelRefill s)).vmc := by simp [cyclePasses]
@[simp] theorem cyclePasses_vmcl :
    (cyclePasses cfg s).vmcl = (fetchPass cfg s.hc s.vc (pixelRefill s)).vmcl := by simp [cyclePasses]
@[simp] theorem cyclePasses_code :
    (cyclePasses cfg s).code = (fetchPass cfg s.hc s.vc (pixelRefill s)).code := by simp [cyclePasses]
@[simp] theorem cyclePasses_colr :
    (cyclePasses cfg s).colr = (fetchPass cfg s.hc s.vc (pixelRefill s)).colr := by simp [cyclePasses]
@[simp] theorem cyclePasses_pipe :
    (cyclePasses cfg s).pipe = (fetchPass cfg s.hc s.vc (pixelRefill s)).pipe := by simp [cyclePasses]

/-- The horizontal pass writes neither the latches nor the pipeline: after a TICK they are the fetch pass's. -/
theorem tick_code : (tick cfg s).code = (fetchPass cfg s.hc s.vc (pixelRefill s)).code := by simp [tick, horizontalPass]
theorem tick_colr : (tick cfg s).colr = (fetchPass cfg s.hc s.vc (pixelRefill s)).colr := by simp [tick, horizontalPass]
theorem tick_pipe : (tick cfg s).pipe = (fetchPass cfg s.hc s.vc (pixelRefill s)).pipe := by simp [tick, horizontalPass]

end

/-! ## What the frame start and the row accounting read -/

theorem State.frameLength_congr {s t : State} (hmode : t.mode = s.mode) (hreg : t.reg 0 = s.reg 0) :
    t.frameLength = s.frameLength := by
  simp only [State.frameLength, State.interlace, State.standard_congr hmode, hreg]

theorem State.cellHeight_congr {s t : State} (hlow : (t.reg 3).extractLsb' 0 7 = (s.reg 3).extractLsb' 0 7) :
    t.cellHeight = s.cellHeight := by
  have htall : t.tall = s.tall := by simpa [State.tall] using congrArg (·.getLsbD 0) hlow
  simp only [State.cellHeight, htall]

/-- The raster update that may come before them leaves both readings alone: it writes R4 and the high bit of R3 (R258). -/
theorem rasterPhase_frameLength (cfg : Config) (hc0 : BitVec 7) (s : State) :
    (rasterPhase cfg hc0 s).frameLength = s.frameLength :=
  State.frameLength_congr (rasterPhase_mode cfg hc0 s) (rasterPhase_reg_other cfg hc0 s 0 (by decide) (by decide))

theorem rasterPhase_cellHeight (cfg : Config) (hc0 : BitVec 7) (s : State) :
    (rasterPhase cfg hc0 s).cellHeight = s.cellHeight :=
  State.cellHeight_congr (rasterPhase_reg_three_low cfg hc0 s)

theorem cyclePasses_reg (cfg : Config) (s : State) (n : RegIx) : (cyclePasses cfg s).reg n = s.reg n :=
  State.reg_congr (cyclePasses_regs cfg s) n

/-! ## The horizontal pass, within a line and at its end -/

theorem verticalPhase_fstate (cfg : Config) (hc0 : BitVec 7) (s : State) :
    (verticalPhase cfg hc0 s).fstate =
      if hc0.toNat = cfg.hcVcInc s.standard ∧ s.frameLength ≤ s.vc.toNat + 1 then .outsideMatrix else s.fstate := by
  unfold verticalPhase
  by_cases hinc : hc0.toNat = cfg.hcVcInc s.standard
  · simp only [hinc, if_true, true_and, verticalIncrement_fstate]
  · simp only [hinc, if_false, false_and]

theorem rowAccounting_fstate (s : State) :
    (rowAccounting s).fstate =
      if xMatched s.fstate then
        if s.cellHeight ≤ s.cdc.toNat + 1 ∧ s.vcc - 1 = 0 then .outsideMatrix else .inMatrixX
      else s.fstate := by
  unfold rowAccounting
  by_cases hmatched : xMatched s.fstate
  · by_cases hend : s.cellHeight ≤ s.cdc.toNat + 1
    · simp only [hmatched, hend, if_true, true_and, rowEnd]
    · simp only [hmatched, hend, if_true, if_false, false_and, rowContinue]
  · rw [if_neg hmatched, if_neg hmatched]

/-- The state of a TICK from `s` when its line phase begins. -/
def beforeLinePhase (cfg : Config) (s : State) : State :=
  verticalPhase cfg s.hc (rasterPhase cfg s.hc (cyclePasses cfg s))

theorem tick_eq_linePhase (cfg : Config) (s : State) : tick cfg s = linePhase s.hc (beforeLinePhase cfg s) := rfl

theorem beforeLinePhase_fstate (cfg : Config) (s : State) :
    (beforeLinePhase cfg s).fstate =
      if s.hc.toNat = cfg.hcVcInc s.standard ∧ s.frameLength ≤ s.vc.toNat + 1 then .outsideMatrix
      else (fetchPass cfg s.hc s.vc (pixelRefill s)).fstate := by
  have hlines : (cyclePasses cfg s).frameLength = s.frameLength :=
    State.frameLength_congr (cyclePasses_mode cfg s) (cyclePasses_reg cfg s 0)
  simp [beforeLinePhase, verticalPhase_fstate, rasterPhase_frameLength, hlines]

theorem beforeLinePhase_cellHeight (cfg : Config) (s : State) : (beforeLinePhase cfg s).cellHeight = s.cellHeight := by
  have hvertical : (beforeLinePhase cfg s).cellHeight = (rasterPhase cfg s.hc (cyclePasses cfg s)).cellHeight :=
    State.cellHeight_congr (congrArg (·.extractLsb' 0 7) (State.reg_congr (verticalPhase_regs ..) 3))
  have hcycle : (cyclePasses cfg s).cellHeight = s.cellHeight :=
    State.cellHeight_congr (congrArg (·.extractLsb' 0 7) (cyclePasses_reg cfg s 3))
  rw [hvertical, rasterPhase_cellHeight, hcycle]

/-- Before a line's last cycle the line phase only steps the horizontal counter (R259). -/
theorem tick_of_not_line_end (cfg : Config) {s : State} (hline : s.hc.toNat + 1 ≠ lineCycles s.standard) :
    tick cfg s = { beforeLinePhase cfg s with hc := s.hc + 1 } := by
  have hstandard : (beforeLinePhase cfg s).standard = s.standard := by simp [beforeLinePhase]
  rw [tick_eq_linePhase, linePhase, hstandard, if_neg hline]

/-- In a line's last cycle the row accounting moves the state that the frame start and the fetch pass have left (R262, R263). -/
theorem tick_fstate_of_line_end (cfg : Config) {s : State} (hline : s.hc.toNat + 1 = lineCycles s.standard) :
    (tick cfg s).fstate =
      if xMatched (beforeLinePhase cfg s).fstate then
        if s.cellHeight ≤ (fetchPass cfg s.hc s.vc (pixelRefill s)).cdc.toNat + 1 ∧
            (fetchPass cfg s.hc s.vc (pixelRefill s)).vcc - 1 = 0 then .outsideMatrix else .inMatrixX
      else (beforeLinePhase cfg s).fstate := by
  have hstandard : (beforeLinePhase cfg s).standard = s.standard := by simp [beforeLinePhase]
  have hreload : (lineReload { beforeLinePhase cfg s with hc := 0 }).cellHeight = s.cellHeight :=
    beforeLinePhase_cellHeight cfg s
  have hcdc : (beforeLinePhase cfg s).cdc = (fetchPass cfg s.hc s.vc (pixelRefill s)).cdc := by simp [beforeLinePhase]
  have hvcc : (beforeLinePhase cfg s).vcc = (fetchPass cfg s.hc s.vc (pixelRefill s)).vcc := by simp [beforeLinePhase]
  rw [tick_eq_linePhase, linePhase, hstandard, if_pos hline, newLine, rowAccounting_fstate, hreload]
  simp only [lineReload, hcdc, hvcc]

/-! ## A TICK whose fetch pass only moves the fetch state -/

section
variable (cfg : Config) {s : State} {f : FetchState}
  (hfetch : fetchPass cfg s.hc s.vc (pixelRefill s) = { pixelRefill s with fstate := f })
include hfetch

/-- In every cycle such a TICK keeps the latches, and the pipeline is left as PixelOut refilled it (R331). -/
theorem tick_latches_of_fetch_only_moves :
    (tick cfg s).code = s.code ∧ (tick cfg s).colr = s.colr ∧ (tick cfg s).pipe = (pixelRefill s).pipe := by
  rw [tick_code, tick_colr, tick_pipe, hfetch]
  exact ⟨rfl, rfl, rfl⟩

/-- Before a line's last cycle it keeps the five cell counters too, and the fetch state is the one moved to, but for a frame
start (R261). -/
theorem tick_counters_of_fetch_only_moves (hline : s.hc.toNat + 1 ≠ lineCycles s.standard) :
    (tick cfg s).fstate =
      (if s.hc.toNat = cfg.hcVcInc s.standard ∧ s.frameLength ≤ s.vc.toNat + 1 then .outsideMatrix else f) ∧
    (tick cfg s).hcc = s.hcc ∧ (tick cfg s).vcc = s.vcc ∧ (tick cfg s).cdc = s.cdc ∧ (tick cfg s).vmc = s.vmc ∧
    (tick cfg s).vmcl = s.vmcl := by
  rw [tick_of_not_line_end cfg hline]
  constructor
  · simp only [beforeLinePhase_fstate, hfetch]
  · simp [beforeLinePhase, hfetch]

/-- In a line's last cycle, X having matched, the row accounting moves the fetch state, but for a frame start (R261, R263). -/
theorem tick_fstate_of_fetch_only_moves_at_line_end (hline : s.hc.toNat + 1 = lineCycles s.standard) (hf : xMatched f = true) :
    (tick cfg s).fstate =
      if s.hc.toNat = cfg.hcVcInc s.standard ∧ s.frameLength ≤ s.vc.toNat + 1 then .outsideMatrix
      else if s.cellHeight ≤ s.cdc.toNat + 1 ∧ s.vcc - 1 = 0 then .outsideMatrix else .inMatrixX := by
  rw [tick_fstate_of_line_end cfg hline, beforeLinePhase_fstate, hfetch]
  by_cases hframe : s.hc.toNat = cfg.hcVcInc s.standard ∧ s.frameLength ≤ s.vc.toNat + 1
  · -- OUTSIDE_MATRIX is no state in which X has matched: the row accounting leaves it.
    rw [if_pos hframe, if_pos hframe]
    rfl
  · rw [if_neg hframe, if_neg hframe, if_pos hf]
    rfl

end

/-- Settles O30: in the two states the fetch pass moves the fetch state and no more, and so does the TICK within a line. -/
theorem delayStatesAdvanceOnePerTick : Obligations.DelayStatesAdvanceOnePerTick := by
  unfold Obligations.DelayStatesAdvanceOnePerTick
  constructor
  · intro cfg hc0 vc0 s
    exact ⟨fetchPass_matrixDly1 cfg hc0 vc0, fetchPass_matrixDly2 cfg hc0 vc0⟩
  · intro s hdelay hline
    have hfetch : fetchPass hw s.hc s.vc (pixelRefill s) =
        { pixelRefill s with fstate := if s.fstate = .matrixDly1 then .matrixDly2 else .matrixDly3 } := by
      rcases hdelay with h | h
      · simpa [h] using fetchPass_matrixDly1 hw s.hc s.vc (s := pixelRefill s) h
      · simpa [h] using fetchPass_matrixDly2 hw s.hc s.vc (s := pixelRefill s) h
    obtain ⟨hfstate, hhcc, hvcc, hcdc, hvmc, hvmcl⟩ := tick_counters_of_fetch_only_moves hw hfetch hline
    have hhc : (tick hw s).hc = s.hc + 1 := by rw [tick_hc, if_neg hline]
    exact ⟨(tick hw s).answer .ok, rfl, hhc, hfstate, hhcc, hvcc, hcdc, hvmc, hvmcl,
      tick_latches_of_fetch_only_moves hw hfetch⟩

/-- Settles O31: in MATRIX_LINE the fetch pass does nothing, so that only a frame start or the new line moves the fetch state. -/
theorem matrixLineRestsUntilTheNewLine : Obligations.MatrixLineRestsUntilTheNewLine := by
  unfold Obligations.MatrixLineRestsUntilTheNewLine
  intro s hs
  have hfetch : fetchPass hw s.hc s.vc (pixelRefill s) = { pixelRefill s with fstate := .matrixLine } := by
    rw [fetchPass_matrixLine hw s.hc s.vc (s := pixelRefill s) hs, ← hs]
    rfl
  obtain ⟨hcode, hcolr, hpipe⟩ := tick_latches_of_fetch_only_moves hw hfetch
  exact ⟨fun cfg hc0 vc0 => fetchPass_matrixLine cfg hc0 vc0 hs, (tick hw s).answer .ok, rfl, hcode, hcolr, hpipe,
    tick_counters_of_fetch_only_moves hw hfetch,
    fun hline => tick_fstate_of_fetch_only_moves_at_line_end hw hfetch hline rfl⟩

end Sys2Proof.Machine
end

section
/-! PROOFS. The two conditions of 60_exceptions.md: the ConfigError of MODE (R501), with what every other stimulus answers
instead, and the read of an unconnected index (R504), with the TICK that fetches from one. -/

namespace Sys2Proof.Machine

/-! ## ConfigError (R501) -/

/-- The code byte of a mode stands for that mode (R133). -/
theorem modeOfCode_modeCode (v : VideoMode) : modeOfCode ((modeCode v).setWidth 8) = some v := by
  cases v <;> rfl

theorem modeOfCode_eq_none_of_gt {m : Byte} (h : 3 < m.toNat) : modeOfCode m = none := by
  unfold modeOfCode
  split
  case h_5 => rfl
  all_goals omega

/-- All that MODE can do: it accepts a mode that passes the revision check, and rejects every other code (R432). -/
theorem selectMode_cases (cfg : Config) (m : Byte) (s : State) :
    (∃ v, modeOfCode m = some v ∧ cfg.modeOk v = true ∧ selectMode cfg m s = (acceptMode v s).answer .ok) ∨
    ((modeOfCode m).any cfg.modeOk = false ∧ selectMode cfg m s = rejectConfigError m s) := by
  unfold selectMode
  cases modeOfCode m with
  | none => exact .inr ⟨rfl, rfl⟩
  | some v =>
    cases hok : cfg.modeOk v with
    | false => exact .inr ⟨hok, if_neg (by simp [hok])⟩
    | true => exact .inl ⟨v, rfl, hok, if_pos hok⟩

/-- Both causes of a rejection at once: no mode of that code passes the revision check. -/
theorem selectMode_of_rejected {cfg : Config} {m : Byte} (s : State) (h : (modeOfCode m).any cfg.modeOk = false) :
    selectMode cfg m s = rejectConfigError m s := by
  obtain ⟨v, hm, hok, -⟩ | ⟨-, hreject⟩ := selectMode_cases cfg m s
  · simp [hm, hok] at h
  · exact hreject

theorem eq_of_selectMode_reply_configError {cfg : Config} {m m' : Byte} {s : State}
    (h : (selectMode cfg m s).reply = .configError m') : m = m' := by
  obtain ⟨v, -, -, haccept⟩ | ⟨-, hreject⟩ := selectMode_cases cfg m s
  · rw [haccept] at h
    cases h
  · rw [hreject] at h
    cases h
    rfl

/-- RD answers a byte, DIAG its record, and the other host accesses OK (R500). -/
theorem HostAccess.reply_ne_configError {i : Instr} {s t : State} (h : HostAccess s i t) (m : Byte) :
    t.reply ≠ .configError m := by
  cases h with
  | rd | wr | memw | overrun | diag => simp

/-- Only MODE answers ConfigError, and with its own code. -/
theorem eq_mode_of_reply_configError {i : Instr} {s t : State} {m : Byte} (h : exec i s = .next t)
    (hreply : t.reply = .configError m) : i = .mode m := by
  obtain rfl | htick := eq_or_ne i .tick
  · cases h
    cases hreply
  obtain rfl | hreset := eq_or_ne i .reset
  · cases h
    cases hreply
  by_cases hmode : ∃ m', i = .mode m'
  · obtain ⟨m', rfl⟩ := hmode
    cases h
    exact congrArg Instr.mode (eq_of_selectMode_reply_configError hreply)
  · have hhost : HostAccess s i t := hostAccess_of_exec h htick hreset fun m' hm' => hmode ⟨m', hm'⟩
    exact absurd hreply (hhost.reply_ne_configError m)

/-- Settles O15: a code of no mode and a mode that fails the check are one rejection, and no other stimulus rejects. -/
theorem rejectedModeReturnsConfigErrorAndChangesNothing : Obligations.RejectedModeReturnsConfigErrorAndChangesNothing := by
  unfold Obligations.RejectedModeReturnsConfigErrorAndChangesNothing
  refine ⟨fun s m hm => ?_, fun cfg s v hv => ?_, fun _ _ => rfl, fun _ _ _ _ => eq_mode_of_reply_configError⟩
  · have hrejected : (modeOfCode m).any hw.modeOk = false := by rw [modeOfCode_eq_none_of_gt hm]; rfl
    exact congrArg Host.Outcome.next (selectMode_of_rejected s hrejected)
  · have hrejected : (modeOfCode ((modeCode v).setWidth 8)).any cfg.modeOk = false := by rw [modeOfCode_modeCode]; exact hv
    exact selectMode_of_rejected s hrejected

/-! ## Open-bus reads (R504) -/

theorem vicRead_of_openBus {cfg : Config} {va : ChipAddr} (s : State) (h : cfg.openBus (cfg.vicToArray va) = true) :
    vicRead cfg s va = cfg.openBusValue := by
  rw [vicRead, if_pos h]

theorem colourRead_of_openBus {cfg : Config} {va : ChipAddr} (s : State) (h : cfg.openBus (colourIndex cfg va) = true) :
    colourRead cfg s va = cfg.openBusValue.extractLsb' 0 4 := by
  rw [colourRead, if_pos h]

/-! What a fetching TICK latches or decodes, connected or not. PixelOut, which runs before the fetch pass, touches neither its
addresses nor what it reads. -/

theorem fetchPass_screenCode (cfg : Config) (hc0 : BitVec 7) (vc0 : BitVec 9) {s : State} (h : s.fstate = .screenCode) :
    fetchPass cfg hc0 vc0 s = screenCodeFetch cfg s := by
  simp only [fetchPass, h]

theorem fetchPass_charData (cfg : Config) (hc0 : BitVec 7) (vc0 : BitVec 9) {s : State} (h : s.fstate = .charData) :
    fetchPass cfg hc0 vc0 s = charDataFetch cfg s := by
  simp only [fetchPass, h]

section
variable (cfg : Config) {s : State}

theorem tick_code_of_screenCode (h : s.fstate = .screenCode) : (tick cfg s).code = vicRead cfg s (screenAddr s) := by
  rw [tick_code, fetchPass_screenCode cfg _ _ (s := pixelRefill s) h]
  rfl

theorem tick_colr_of_screenCode (h : s.fstate = .screenCode) : (tick cfg s).colr = colourRead cfg s (screenAddr s) := by
  rw [tick_colr, fetchPass_screenCode cfg _ _ (s := pixelRefill s) h]
  rfl

theorem tick_pipe_of_charData (h : s.fstate = .charData) :
    (tick cfg s).pipe = decodeChar s (vicRead cfg s (charAddr s)) s.colr := by
  rw [tick_pipe, fetchPass_charData cfg _ _ (s := pixelRefill s) h]
  rfl

end

/-- Settles O36: the sentinel takes the place of the byte read, in the TICK that fetches as in the read itself. -/
theorem openBusReadsReturnTheSentinel : Obligations.OpenBusReadsReturnTheSentinel := by
  unfold Obligations.OpenBusReadsReturnTheSentinel
  intro cfg s va
  refine ⟨fun hopen => ⟨vicRead_of_openBus s hopen, ?_, ?_⟩, fun hopen => ⟨colourRead_of_openBus s hopen, ?_⟩, tick_mem cfg s⟩
  · rintro hs rfl
    rw [tick_code_of_screenCode cfg hs, vicRead_of_openBus s hopen]
  · rintro hs rfl
    rw [tick_pipe_of_charData cfg hs, vicRead_of_openBus s hopen]
  · rintro hs rfl
    rw [tick_colr_of_screenCode cfg hs, colourRead_of_openBus s hopen]

end Sys2Proof.Machine
end

section
/-! PROOFS. The stimulus word (30_encoding.md R120 to R126, R140): a word is its four fields, the decoder and the encoder are each
other's inverse, and the rows of the opcode table part the words that decode. -/

namespace Sys2Proof

/-! ## A word and its fields -/

theorem packWord_eq_of_fields {w : Word} {op r : BitVec 4} {a : MemIx} {d : Byte} (hop : opOf w = op) (hr : rOf w = r)
    (ha : aOf w = a) (hd : dOf w = d) : packWord op r a d = w := by
  rw [← hop, ← hr, ← ha, ← hd, packWord_fields]

theorem packWord_inj {op op' r r' : BitVec 4} {a a' : MemIx} {d d' : Byte} :
    packWord op r a d = packWord op' r' a' d' ↔ op = op' ∧ r = r' ∧ a = a' ∧ d = d' := by
  refine ⟨fun h => ⟨?_, ?_, ?_, ?_⟩, fun ⟨hop, hr, ha, hd⟩ => by rw [hop, hr, ha, hd]⟩
  · simpa using congrArg opOf h
  · simpa using congrArg rOf h
  · simpa using congrArg aOf h
  · simpa using congrArg dOf h

/-- Two bit fields side by side are a number: the upper one times the lower one's size, plus the lower one. -/
theorem append_toNat {m n : Nat} (x : BitVec m) (y : BitVec n) : (x ++ y).toNat = x.toNat * 2 ^ n + y.toNat := by
  rw [BitVec.toNat_append, ← Nat.shiftLeft_add_eq_or_of_lt y.isLt, Nat.shiftLeft_eq]

/-- A word as a number (R120). -/
theorem packWord_toNat (op r : BitVec 4) (a : MemIx) (d : Byte) :
    (packWord op r a d).toNat = op.toNat * 2 ^ 28 + r.toNat * 2 ^ 24 + a.toNat * 2 ^ 8 + d.toNat := by
  rw [packWord, append_toNat, append_toNat, append_toNat]
  omega

/-- The fields of a word given as a number are the digits of that number (R120). -/
theorem fields_toNat {w : Word} {op r a d : Nat} (hw : w.toNat = op * 2 ^ 28 + r * 2 ^ 24 + a * 2 ^ 8 + d) (hr : r < 16)
    (ha : a < 65536) (hd : d < 256) :
    (opOf w).toNat = op ∧ (rOf w).toNat = r ∧ (aOf w).toNat = a ∧ (dOf w).toNat = d := by
  have hnum := packWord_toNat (opOf w) (rOf w) (aOf w) (dOf w)
  rw [packWord_fields, hw] at hnum
  have hr' := (rOf w).isLt
  have ha' := (aOf w).isLt
  have hd' := (dOf w).isLt
  omega

/-! ## Decoding -/

theorem requireZero_eq_instr_iff {z : Bool} {i j : Instr} : requireZero z i = .instr j ↔ z = true ∧ i = j := by
  cases z <;> simp [requireZero]

theorem requireZero_eq_reservedBits_iff {z : Bool} {i : Instr} : requireZero z i = .refused .reservedBitsNonzero ↔ z = false := by
  cases z <;> simp [requireZero]

theorem requireZero_ne_reservedOp (z : Bool) (i : Instr) : requireZero z i ≠ .refused .reservedOp := by
  cases z <;> simp [requireZero]

/-! ## The encoder's words, row by row (RD and WR are `encode_rdInstr` and `encode_wrInstr`) -/

theorem encode_tick : encode .tick = packWord 0 0 0 0 := rfl
theorem encode_memw (a : MemIx) (d : Byte) : encode (.memw a d) = packWord 3 0 a d := rfl
theorem encode_mode (m : Byte) : encode (.mode m) = packWord 4 0 0 m := rfl
theorem encode_reset : encode .reset = packWord 5 0 0 0 := rfl
theorem encode_overrun : encode .overrun = packWord 6 0 0 0 := rfl
theorem encode_diag : encode .diag = packWord 7 0 0 0 := rfl

/-! ## The decoder and the encoder are each other's inverse -/

theorem decode_encode (i : Instr) : decode (encode i) = .instr i := by
  cases i using Instr.byOperation with
  | tick | reset | overrun | diag => decide
  | rd n => simp [encode_rdInstr, decode, requireZero]
  | wr n d => simp [encode_wrInstr, decode, requireZero]
  | memw a d => simp [encode_memw, decode, requireZero]
  | mode m => simp [encode_mode, decode, requireZero]

/-- The fields that a row of R121's table marks 0 are 0 in every word of the row, so that the word holds nothing but the operands. -/
theorem encode_of_decode {w : Word} {i : Instr} (h : decode w = .instr i) : encode i = w := by
  unfold decode at h
  split at h
  case h_9 => cases h
  all_goals
    next hop =>
    obtain ⟨hzero, rfl⟩ := requireZero_eq_instr_iff.1 h
    simp only [Bool.and_eq_true, beq_iff_eq] at hzero
    simp only [encode_tick, encode_rdInstr, encode_wrInstr, encode_memw, encode_mode, encode_reset, encode_overrun, encode_diag]
    refine packWord_eq_of_fields (BitVec.eq_of_toNat_eq hop) ?_ ?_ ?_ <;> simp only [hzero]

theorem encode_injective {i j : Instr} (h : encode i = encode j) : i = j := by
  have hdecode := decode_encode i
  rw [h, decode_encode] at hdecode
  cases hdecode
  rfl

/-- Settles O2: the word of each row holds the row's operands in the fields that the decoder reads. -/
theorem decodingAnEncodedStimulusGivesItBack : Obligations.DecodingAnEncodedStimulusGivesItBack := by
  unfold Obligations.DecodingAnEncodedStimulusGivesItBack
  exact fun i _ => decode_encode i

/-- Settles O3: a word that decodes has no bits but its row's and the operands'. -/
theorem encodingADecodedWordGivesItBack : Obligations.EncodingADecodedWordGivesItBack := by
  unfold Obligations.EncodingADecodedWordGivesItBack
  exact fun _ _ => encode_of_decode

/-! ## The rows of the opcode table (R122) -/

theorem rowMatch_rdInstr (r : BitVec 4) : rowMatch (rdInstr r) = packWord 1 r 0 0 := by
  revert r; decide

theorem rowMatch_wrInstr (n : Fin 16) (d : Byte) : rowMatch (wrInstr (BitVec.ofFin n) d) = packWord 2 (BitVec.ofFin n) 0 0 := by
  have hoperand : rowMatch (wrInstr (BitVec.ofFin n) d) = rowMatch (wrInstr (BitVec.ofFin n) 0) := by fin_cases n <;> rfl
  have hrow : ∀ n : Fin 16, rowMatch (wrInstr (BitVec.ofFin n) 0) = packWord 2 (BitVec.ofFin n) 0 0 := by decide
  exact hoperand.trans (hrow n)

theorem rowMatch_memw (a : MemIx) (d : Byte) : rowMatch (.memw a d) = packWord 3 0 0 0 :=
  show (0x30000000 : Word) = _ by decide

theorem rowMatch_mode (m : Byte) : rowMatch (.mode m) = packWord 4 0 0 0 :=
  show (0x40000000 : Word) = _ by decide

theorem rowMask_rdInstr (r : BitVec 4) : rowMask (rdInstr r) = 0xFFFFFFFF := by
  revert r; decide

theorem rowMask_wrInstr (n : Fin 16) (d : Byte) : rowMask (wrInstr (BitVec.ofFin n) d) = 0xFFFFFF00 := by
  fin_cases n <;> rfl

theorem packWord_and (op op' r r' : BitVec 4) (a a' : MemIx) (d d' : Byte) :
    packWord op r a d &&& packWord op' r' a' d' = packWord (op &&& op') (r &&& r') (a &&& a') (d &&& d') :=
  BitVec.and_append.trans (by rw [BitVec.and_append, BitVec.and_append]; rfl)

theorem packWord_and_byteMask (op r : BitVec 4) (a : MemIx) (d : Byte) : packWord op r a d &&& 0xFFFFFF00 = packWord op r a 0 := by
  rw [show (0xFFFFFF00 : Word) = packWord (BitVec.allOnes 4) (BitVec.allOnes 4) (BitVec.allOnes 16) 0 by decide, packWord_and,
    BitVec.and_allOnes, BitVec.and_allOnes, BitVec.and_allOnes]
  simp

theorem and_fullMask (w : Word) : w &&& 0xFFFFFFFF = w := BitVec.and_allOnes

/-- The word of a row, masked as the row says, is the row's match. -/
theorem encode_and_rowMask (i : Instr) : encode i &&& rowMask i = rowMatch i := by
  cases i using Instr.byOperation with
  | tick | reset | overrun | diag => decide
  | rd n => rw [encode_rdInstr, rowMask_rdInstr, rowMatch_rdInstr, and_fullMask]
  | wr n d => rw [encode_wrInstr, rowMask_wrInstr, rowMatch_wrInstr, packWord_and_byteMask]
  | memw a d => exact (Laws.TableRow.of_index 3 0 a d).trans (rowMatch_memw a d).symm
  | mode m => exact (packWord_and_byteMask 4 0 0 m).trans (rowMatch_mode m).symm

/-- The mask of the rows with an `op` field: MEMW leaves `a` and `d` free, WR and MODE `d`, the others nothing. -/
def maskOfOp (op : BitVec 4) : Word :=
  if op = 3 then 0xFF000000 else if op = 2 ∨ op = 4 then 0xFFFFFF00 else 0xFFFFFFFF

theorem rowMask_eq_maskOfOp (i : Instr) : rowMask i = maskOfOp (opOf (rowMatch i)) := by
  cases i using Instr.byOperation with
  | tick | reset | overrun | diag => decide
  | rd n => rw [rowMask_rdInstr, rowMatch_rdInstr, opOf_packWord]; decide
  | wr n d => rw [rowMask_wrInstr, rowMatch_wrInstr, opOf_packWord]; decide
  | memw a d => rw [rowMatch_memw, opOf_packWord]; rfl
  | mode m => rw [rowMatch_mode, opOf_packWord]; rfl

/-- A word that matches a row is the row's, with the operands that the word holds in the fields the mask leaves free. -/
theorem exists_encode_of_masked {w : Word} {i : Instr} (h : w &&& rowMask i = rowMatch i) :
    ∃ j, encode j = w ∧ rowMatch j = rowMatch i := by
  have hfull : rowMask i = 0xFFFFFFFF → ∃ j, encode j = w ∧ rowMatch j = rowMatch i := fun hmask => by
    have hown := encode_and_rowMask i
    rw [hmask, and_fullMask] at h hown
    exact ⟨i, hown.trans h.symm, rfl⟩
  cases i using Instr.byOperation with
  | tick | reset | overrun | diag => exact hfull rfl
  | rd n => exact hfull (rowMask_rdInstr _)
  | wr n d =>
    rw [rowMask_wrInstr, rowMatch_wrInstr, ← packWord_fields w, packWord_and_byteMask, packWord_inj] at h
    obtain ⟨hop, hr, ha, -⟩ := h
    exact ⟨wrInstr (BitVec.ofFin n) (dOf w), (encode_wrInstr ..).trans (packWord_eq_of_fields hop hr ha rfl),
      by rw [rowMatch_wrInstr, rowMatch_wrInstr]⟩
  | memw a d =>
    rw [rowMatch_memw, ← packWord_fields w] at h
    obtain ⟨hop, hr, -⟩ := packWord_inj.1 ((Laws.TableRow.of_index ..).symm.trans h)
    exact ⟨.memw (aOf w) (dOf w), packWord_eq_of_fields hop hr rfl rfl, rfl⟩
  | mode m =>
    rw [rowMatch_mode, ← packWord_fields w] at h
    obtain ⟨hop, hr, ha, -⟩ := packWord_inj.1 ((packWord_and_byteMask ..).symm.trans h)
    exact ⟨.mode (dOf w), packWord_eq_of_fields hop hr ha rfl, rfl⟩

/-- Settles O4: the mask leaves exactly the operands free, and a row's match tells its mask. -/
theorem wordDecodesToTheRowItMatches : Obligations.WordDecodesToTheRowItMatches := by
  unfold Obligations.WordDecodesToTheRowItMatches
  intro w i
  constructor
  · rintro ⟨j, hj, hrow⟩
    have hmask : rowMask i = rowMask j := by rw [rowMask_eq_maskOfOp, rowMask_eq_maskOfOp, hrow]
    rw [← encode_of_decode hj, hmask, encode_and_rowMask, hrow]
  · intro h
    obtain ⟨j, rfl, hrow⟩ := exists_encode_of_masked h
    exact ⟨j, decode_encode j, hrow⟩

/-! ## The refusals (R124) -/

theorem beq_zero_eq_decide {n : Nat} (x : BitVec n) : (x == 0) = decide (x.toNat = 0) := by
  rw [Bool.eq_iff_iff, beq_iff_eq, decide_eq_true_eq, BitVec.toNat_eq]
  rfl

/-- Settles O5: the decoder reads nothing but the fields of the word, which are the digits of the word as a number. -/
theorem decoderRefusesExactlyTheReservedWords : Obligations.DecoderRefusesExactlyTheReservedWords := by
  unfold Obligations.DecoderRefusesExactlyTheReservedWords
  intro w op r a d hw hr ha hd
  obtain ⟨hop, hr, ha, hd⟩ := fields_toNat hw hr ha hd
  simp only [decode, hop, beq_zero_eq_decide, hr, ha, hd]
  rcases Nat.lt_or_ge op 8 with hclass | hreserved
  · interval_cases op <;> simp [requireZero_ne_reservedOp, requireZero_eq_reservedBits_iff, imp_iff_not_or, or_assoc]
  · obtain ⟨k, rfl⟩ := Nat.exists_eq_add_of_le' hreserved
    simp

/-! ## Words of the spec and of stimulus programs -/

/-- Settles O1: the decoder, run on each word. -/
theorem decodesTheWordsOfTheSpec : Obligations.DecodesTheWordsOfTheSpec := by
  unfold Obligations.DecodesTheWordsOfTheSpec
  decide

/-- A word given by its fields is the word with that number. -/
theorem packWord_eq_ofNat (op r : BitVec 4) (a : MemIx) (d : Byte) :
    packWord op r a d = BitVec.ofNat 32 (op.toNat * 2 ^ 28 + r.toNat * 2 ^ 24 + a.toNat * 2 ^ 8 + d.toNat) := by
  rw [← packWord_toNat, BitVec.ofNat_toNat, BitVec.setWidth_eq]

end Sys2Proof

namespace Sys2Proof.Machine

/-- Settles O59: an operand in range is the whole content of its field. -/
theorem assemblyLinesHaveTheirWords : Obligations.AssemblyLinesHaveTheirWords := by
  unfold Obligations.AssemblyLinesHaveTheirWords
  intro S il r d a m hr hd ha hm
  have hr4 : (BitVec.ofNat 4 r).toNat = r := Nat.mod_eq_of_lt (by omega)
  have hd8 : (BitVec.ofNat 8 d).toNat = d := Nat.mod_eq_of_lt (by omega)
  have ha16 : (BitVec.ofNat 16 a).toNat = a := Nat.mod_eq_of_lt (by omega)
  have hm8 : (BitVec.ofNat 8 m).toNat = m := Nat.mod_eq_of_lt (by omega)
  refine ⟨rfl, ?_, ?_, ?_, ?_, rfl, rfl, rfl⟩
  · simp [lineWords, expandLine, encode_rdInstr, packWord_eq_ofNat, hr4]
  · simp [lineWords, expandLine, encode_wrInstr, packWord_eq_ofNat, hr4, hd8]
  · simp [lineWords, expandLine, memwRun, encode_memw, packWord_eq_ofNat, ha16, hd8]
  · simp [lineWords, expandLine, encode_mode, packWord_eq_ofNat, hm8]

end Sys2Proof.Machine
end

section
/-! PROOFS. What a TICK leaves in each field that its passes write besides the fetch machine's, as one equation in the state before it
(41_cycle_tick.md R250, R258 to R263; 44_composite_encoder.md R350; 45_audio.md R380; 46_framebuffer.md R410). -/

namespace Sys2Proof.Machine

/-! ## The registers -/

section
variable (cfg : Config) (s : State)

theorem tick_reg (n : RegIx) : (tick cfg s).reg n = (rasterPhase cfg s.hc (cyclePasses cfg s)).reg n :=
  State.reg_congr (tick_regs cfg s) n

theorem tick_reg_other (n : RegIx) (h3 : n ≠ 3) (h4 : n ≠ 4) : (tick cfg s).reg n = s.reg n := by
  rw [tick_reg, rasterPhase_reg_other cfg s.hc _ n h3 h4, cyclePasses_reg]

theorem tick_reg_three_low : ((tick cfg s).reg 3).extractLsb' 0 7 = (s.reg 3).extractLsb' 0 7 := by
  rw [tick_reg, rasterPhase_reg_three_low, cyclePasses_reg]

/-! ## The counters within their ranges -/

theorem hc_succ_toNat {hc : BitVec 7} (h : hc.toNat + 1 < 128) : (hc + 1).toNat = hc.toNat + 1 :=
  BitVec.toNat_add_of_lt h

theorem vc_succ_toNat {vc : BitVec 9} (h : vc.toNat + 1 < 512) : (vc + 1).toNat = vc.toNat + 1 :=
  BitVec.toNat_add_of_lt h

/-! ## The vertical counter and the field (R260, R261) -/

/-- The frame starts in this cycle: vc increments, from the last line of the frame (R260, R261). -/
abbrev FrameStarts (cfg : Config) (s : State) : Prop :=
  s.hc.toNat = cfg.hcVcInc s.standard ∧ s.frameLength ≤ s.vc.toNat + 1

theorem State.interlace_congr {s t : State} (hreg : t.reg 0 = s.reg 0) : t.interlace = s.interlace := by
  simp only [State.interlace, hreg]

theorem rasterPhase_interlace (hc0 : BitVec 7) : (rasterPhase cfg hc0 s).interlace = s.interlace :=
  State.interlace_congr (rasterPhase_reg_other cfg hc0 s 0 (by decide) (by decide))

theorem cyclePasses_interlace : (cyclePasses cfg s).interlace = s.interlace :=
  State.interlace_congr (cyclePasses_reg cfg s 0)

theorem cyclePasses_frameLength : (cyclePasses cfg s).frameLength = s.frameLength :=
  State.frameLength_congr (cyclePasses_mode cfg s) (cyclePasses_reg cfg s 0)

theorem verticalPhase_vc (hc0 : BitVec 7) :
    (verticalPhase cfg hc0 s).vc =
      if hc0.toNat = cfg.hcVcInc s.standard then if s.frameLength ≤ s.vc.toNat + 1 then 0 else s.vc + 1 else s.vc := by
  unfold verticalPhase
  split
  · exact verticalIncrement_vc s
  · rfl

theorem verticalIncrement_field :
    (verticalIncrement s).field =
      (s.field ^^ decide (s.frameLength ≤ s.vc.toNat + 1 ∧ s.standard = .ntsc ∧ s.interlace = true)) := by
  have hstart : (frameStart { s with vc := 0 }).field = if s.standard = .ntsc ∧ s.interlace = true then !s.field else s.field := rfl
  unfold verticalIncrement
  by_cases hlast : s.frameLength ≤ s.vc.toNat + 1
  · rw [if_pos hlast, hstart]
    by_cases hinterlaced : s.standard = .ntsc ∧ s.interlace = true <;> simp [hlast, hinterlaced]
  · simp [hlast]

theorem verticalPhase_field (hc0 : BitVec 7) :
    (verticalPhase cfg hc0 s).field =
      (s.field ^^ decide (hc0.toNat = cfg.hcVcInc s.standard ∧ s.frameLength ≤ s.vc.toNat + 1 ∧
        s.standard = .ntsc ∧ s.interlace = true)) := by
  unfold verticalPhase
  split
  · next hinc => simp [verticalIncrement_field, hinc]
  · next hinc => simp [hinc]

theorem tick_vc_eq :
    (tick cfg s).vc =
      if s.hc.toNat = cfg.hcVcInc s.standard then if s.frameLength ≤ s.vc.toNat + 1 then 0 else s.vc + 1 else s.vc := by
  simp only [tick_vc, verticalPhase_vc, rasterPhase_standard, cyclePasses_standard, rasterPhase_frameLength,
    cyclePasses_frameLength, rasterPhase_vc, cyclePasses_vc]

theorem tick_field :
    (tick cfg s).field =
      (s.field ^^ decide (s.hc.toNat = cfg.hcVcInc s.standard ∧ s.frameLength ≤ s.vc.toNat + 1 ∧
        s.standard = .ntsc ∧ s.interlace = true)) := by
  simp only [tick_eq_linePhase, linePhase_field, beforeLinePhase, verticalPhase_field, rasterPhase_standard, cyclePasses_standard,
    rasterPhase_frameLength, cyclePasses_frameLength, rasterPhase_interlace, cyclePasses_interlace, rasterPhase_vc,
    cyclePasses_vc, rasterPhase_field, cyclePasses_field]

/-! ## The line parity and the column counter (R262, R410) -/

theorem linePhase_lineParity (hc0 : BitVec 7) :
    (linePhase hc0 s).lineParity = (s.lineParity ^^ decide (hc0.toNat + 1 = lineCycles s.standard)) := by
  unfold linePhase
  split
  · next hline => simp [newLine, lineReload, hline]
  · next hline => simp [hline]

theorem linePhase_fbcol (hc0 : BitVec 7) :
    (linePhase hc0 s).fbcol = if hc0.toNat + 1 = lineCycles s.standard then 0 else s.fbcol := by
  unfold linePhase
  split
  · simp [newLine, lineReload]
  · rfl

@[simp] theorem beforeLinePhase_standard : (beforeLinePhase cfg s).standard = s.standard := by
  simp [beforeLinePhase]

theorem tick_lineParity :
    (tick cfg s).lineParity = (s.lineParity ^^ decide (s.hc.toNat + 1 = lineCycles s.standard)) := by
  rw [tick_eq_linePhase, linePhase_lineParity, beforeLinePhase_standard]
  simp [beforeLinePhase]

theorem tick_fbcol :
    (tick cfg s).fbcol =
      if s.hc.toNat + 1 = lineCycles s.standard then 0
      else if visible cfg s.standard s.hc s.vc then s.fbcol + 4 else s.fbcol := by
  have hstandard : (encoderStep cfg s.hc s.vc (shownBatch cfg s s.hc s.vc (pixelBatch s))
      (fetchPass cfg s.hc s.vc (pixelRefill s))).standard = s.standard := State.standard_congr (by simp)
  rw [tick_eq_linePhase, linePhase_fbcol, beforeLinePhase_standard]
  simp [beforeLinePhase, cyclePasses, framebufferStep_fbcol, hstandard]

/-! ## The outputs (R350, R410) -/

/-- The batch that the encoder and the framebuffer writer get in a TICK (R267, R330). -/
def State.tickBatch (cfg : Config) (s : State) : Vector Colour 4 := shownBatch cfg s s.hc s.vc (pixelBatch s)

theorem tick_out :
    (tick cfg s).out = s.out ++ encoderWords cfg s.standard s.lineParity s.field s.hc s.vc (s.tickBatch cfg) := by
  have hstandard : (fetchPass cfg s.hc s.vc (pixelRefill s)).standard = s.standard := State.standard_congr (by simp)
  simp [tick, horizontalPass, cyclePasses, encoderStep, hstandard, State.tickBatch]

theorem tick_fb :
    (tick cfg s).fb =
      if visible cfg s.standard s.hc s.vc then pixels.foldl (fbPixel cfg s.standard s.vc s.fbcol (s.tickBatch cfg)) s.fb
      else s.fb := by
  have hstandard : (encoderStep cfg s.hc s.vc (s.tickBatch cfg) (fetchPass cfg s.hc s.vc (pixelRefill s))).standard =
      s.standard := State.standard_congr (by simp)
  have hcycle : (tick cfg s).fb = (framebufferStep cfg s.hc s.vc (s.tickBatch cfg)
      (encoderStep cfg s.hc s.vc (s.tickBatch cfg) (fetchPass cfg s.hc s.vc (pixelRefill s)))).fb := by
    simp [tick, horizontalPass, cyclePasses, State.tickBatch]
  rw [hcycle, framebufferStep, hstandard]
  split <;> simp

/-! ## The prescaler and the level (R380, R394) -/

theorem audioTick_ap : (audioTick cfg s).ap = (s.ap + 1) % cfg.audioPrescMod := by
  simp [audioTick, mixDown, advancePrescaler, channels]

theorem tick_ap : (tick cfg s).ap = (s.ap + 1) % cfg.audioPrescMod := by
  simp [tick, horizontalPass, cyclePasses, audioTick_ap]

/-- The state that AudioTick starts from in a TICK (R250). -/
def beforeAudio (cfg : Config) (s : State) : State :=
  framebufferStep cfg s.hc s.vc (s.tickBatch cfg) (encoderStep cfg s.hc s.vc (s.tickBatch cfg)
    (fetchPass cfg s.hc s.vc (pixelRefill s)))

/-- The state after the steps of a TICK's four channels (R380). -/
def afterChannels (cfg : Config) (s : State) : State := channels.foldl (channelStep cfg) (beforeAudio cfg s)

theorem tick_eq_mixDown :
    tick cfg s = horizontalPass cfg s.hc (mixDown cfg (advancePrescaler cfg (afterChannels cfg s))) := by
  simp only [tick, cyclePasses, audioTick, afterChannels, beforeAudio, State.tickBatch]

/-- The mix reads the bank and the waveform registers, not the prescaler (R394). -/
theorem mixDown_advancePrescaler_audioLevel :
    (mixDown cfg (advancePrescaler cfg s)).audioLevel = (mixDown cfg s).audioLevel := rfl

theorem tick_audioLevel : (tick cfg s).audioLevel = (mixDown cfg (afterChannels cfg s)).audioLevel := by
  rw [tick_eq_mixDown, horizontalPass, linePhase_audioLevel, verticalPhase_audioLevel, rasterPhase_audioLevel,
    mixDown_advancePrescaler_audioLevel]

end

end Sys2Proof.Machine
end

section
/-! PROOFS. One step (00_scope.md R13) and the host's stimuli (40_register_bank.md, 47_host_ops.md, 60_exceptions.md): what a step
takes from the queue, all that a stimulus can do, and the effect and the frame of each access. -/

namespace Sys2Proof.Machine

/-! ## The step -/

theorem step_of_instr {s : State} {w : Word} {rest : List Word} {i : Instr} (hstim : s.stim = w :: rest)
    (hw : decode w = .instr i) : step s = exec i { s with stim := rest } := by
  simp only [step, fetchStimulus, hstim, hw]

theorem step_of_refused {s : State} {w : Word} {rest : List Word} {r : DecodeRefusal} (hstim : s.stim = w :: rest)
    (hw : decode w = .refused r) : step s = .refused (refusalOf w r) := by
  simp only [step, fetchStimulus, hstim, hw]

theorem step_of_empty {s : State} (hstim : s.stim = []) : step s = .next s := by
  simp only [step, fetchStimulus, hstim]

/-- A step that completes with a word pending ran the stimulus of that word. -/
theorem exec_of_step {s t : State} {w : Word} {rest : List Word} (hstim : s.stim = w :: rest) (h : step s = .next t) :
    ∃ i, encode i = w ∧ exec i { s with stim := rest } = .next t := by
  cases hw : decode w with
  | instr i => exact ⟨i, encode_of_decode hw, (step_of_instr hstim hw).symm.trans h⟩
  | refused r =>
    rw [step_of_refused hstim hw] at h
    cases h

/-- Settles O6: a step is the dispatch of the decoded word. -/
theorem stepRunsTheDecodedStimulus : Obligations.StepRunsTheDecodedStimulus := by
  unfold Obligations.StepRunsTheDecodedStimulus
  exact fun _ _ _ _ => step_of_instr

/-- Settles O7: the decoder's refusal is the step's, with the word. -/
theorem stepRefusesAWordOfNoStimulus : Obligations.StepRefusesAWordOfNoStimulus := by
  unfold Obligations.StepRefusesAWordOfNoStimulus
  exact fun s w rest hstim => ⟨step_of_refused hstim, step_of_refused hstim⟩

/-- Settles O8: an empty queue gives nothing to decode. -/
theorem stepWaitsWithoutAStimulus : Obligations.StepWaitsWithoutAStimulus := by
  unfold Obligations.StepWaitsWithoutAStimulus
  exact fun _ => step_of_empty

/-! ## All that a stimulus can do -/

theorem exec_completes (i : Instr) (s : State) : ∃ t, exec i s = .next t := by
  cases i using Instr.byOperation with
  | tick | memw | mode | reset | overrun | diag => exact ⟨_, rfl⟩
  | rd n => exact ⟨_, exec_rdInstr n s⟩
  | wr n d => exact ⟨_, exec_wrInstr n d s⟩

/-- The state a stimulus leaves, by what it does: TICK, MODE, RESET, or a host access. -/
theorem exec_cases {i : Instr} {s t : State} (h : exec i s = .next t) :
    (i = .tick ∧ t = (tick hw s).answer .ok) ∨ (∃ m, i = .mode m ∧ t = selectMode hw m s) ∨
    (i = .reset ∧ t = (reinitialise hw s).answer .ok) ∨ HostAccess s i t := by
  by_cases htick : i = .tick
  · subst htick
    cases h
    exact .inl ⟨rfl, rfl⟩
  by_cases hmode : ∃ m, i = .mode m
  · obtain ⟨m, rfl⟩ := hmode
    cases h
    exact .inr (.inl ⟨m, rfl, rfl⟩)
  by_cases hreset : i = .reset
  · subst hreset
    cases h
    exact .inr (.inr (.inl ⟨rfl, rfl⟩))
  exact .inr (.inr (.inr (hostAccess_of_exec h htick hreset fun m hm => hmode ⟨m, hm⟩)))

/-- Settles O20: every arm answers a next state, and of the four kinds of stimulus only MODE can answer other than OK. -/
theorem everyStimulusCompletes : Obligations.EveryStimulusCompletes := by
  unfold Obligations.EveryStimulusCompletes
  intro i s
  obtain ⟨t, h⟩ := exec_completes i s
  refine ⟨t, h, ?_⟩
  obtain ⟨rfl, rfl⟩ | ⟨m, rfl, rfl⟩ | ⟨rfl, rfl⟩ | hhost := exec_cases h
  · exact .inl rfl
  · obtain ⟨v, -, -, haccept⟩ | ⟨-, hreject⟩ := selectMode_cases hw m s
    · rw [haccept]
      exact .inl rfl
    · rw [hreject]
      exact .inr ⟨rfl, m, rfl⟩
  · exact .inl rfl
  · cases hhost with
    | rd | wr | memw | overrun | diag => exact .inl rfl

/-! ## RD and WR -/

/-- Settles O9: each of the sixteen rows is the shared read of its register. -/
theorem readAnswersTheByteOfTheRegister : Obligations.ReadAnswersTheByteOfTheRegister := by
  unfold Obligations.ReadAnswersTheByteOfTheRegister
  intro s
  refine ⟨?_, ?_, ?_, ?_, ?_, ?_, ?_, ?_, ?_, ?_, ?_, ?_, ?_, ?_, ?_, ?_⟩
  exacts [exec_rdInstr 0 s, exec_rdInstr 1 s, exec_rdInstr 2 s, exec_rdInstr 3 s, exec_rdInstr 4 s, exec_rdInstr 5 s,
    exec_rdInstr 6 s, exec_rdInstr 7 s, exec_rdInstr 8 s, exec_rdInstr 9 s, exec_rdInstr 10 s, exec_rdInstr 11 s,
    exec_rdInstr 12 s, exec_rdInstr 13 s, exec_rdInstr 14 s, exec_rdInstr 15 s]

/-- Settles O10: each of the sixteen rows is the shared write of its register. -/
theorem writeStoresTheByteInTheRegister : Obligations.WriteStoresTheByteInTheRegister := by
  unfold Obligations.WriteStoresTheByteInTheRegister
  intro s d
  refine ⟨?_, ?_, ?_, ?_, ?_, ?_, ?_, ?_, ?_, ?_, ?_, ?_, ?_, ?_, ?_, ?_⟩
  exacts [exec_wrInstr 0 d s, exec_wrInstr 1 d s, exec_wrInstr 2 d s, exec_wrInstr 3 d s, exec_wrInstr 4 d s, exec_wrInstr 5 d s,
    exec_wrInstr 6 d s, exec_wrInstr 7 d s, exec_wrInstr 8 d s, exec_wrInstr 9 d s, exec_wrInstr 10 d s, exec_wrInstr 11 d s,
    exec_wrInstr 12 d s, exec_wrInstr 13 d s, exec_wrInstr 14 d s, exec_wrInstr 15 d s]

/-- Settles O11: the write stores the byte that the read answers, and no other register's. -/
theorem readAfterWriteAnswersTheWrittenByte : Obligations.ReadAfterWriteAnswersTheWrittenByte := by
  unfold Obligations.ReadAfterWriteAnswersTheWrittenByte
  intro s n m d
  refine ⟨_, _, exec_wrInstr n.toFin d s, exec_rdInstr m.toFin _, ?_⟩
  rw [State.answer_reply, State.answer_reg]
  by_cases h : m = n
  · rw [if_pos h, h, State.reg_setReg_same]
  · have hother : m.toFin ≠ n.toFin := fun e => h (BitVec.eq_of_toFin_eq e)
    rw [if_neg h, State.reg_setReg_other s _ _ d hother]
    rfl

/-! ## MEMW, MODE, RESET, OVERRUN and DIAG -/

/-- Settles O13: the write of one canonical cell, and of nothing else but the reply. -/
theorem memoryWriteStoresOneByte : Obligations.MemoryWriteStoresOneByte := by
  unfold Obligations.MemoryWriteStoresOneByte
  intro s a d hwf
  exact ⟨(s.setMemByte hw a d).answer .ok, rfl, State.memByte_setMemByte_same hw s a d hwf,
    fun b hb => State.memByte_setMemByte_other hw s a b d hb, Memory.wf_write _ _ hwf, rfl⟩

/-- Settles O14: the code byte of a mode that passes the check is accepted. -/
theorem acceptedModeRestartsTheSequencing : Obligations.AcceptedModeRestartsTheSequencing := by
  unfold Obligations.AcceptedModeRestartsTheSequencing
  intro s v hok
  have haccept : selectMode hw ((modeCode v).setWidth 8) s = (acceptMode v s).answer .ok := by
    rw [selectMode, modeOfCode_modeCode]
    exact if_pos hok
  exact congrArg Host.Outcome.next haccept

/-- Settles O16: RESET builds its state from the reset values and keeps the three fields that are not the core's. -/
theorem resetGivesEveryFieldItsResetValue : Obligations.ResetGivesEveryFieldItsResetValue := by
  unfold Obligations.ResetGivesEveryFieldItsResetValue
  exact ⟨fun _ => rfl, rfl⟩

/-- Settles O17: the only two fields written are the counter and the reply. -/
theorem overrunAddsOneToTheCounter : Obligations.OverrunAddsOneToTheCounter := by
  unfold Obligations.OverrunAddsOneToTheCounter
  exact fun _ => rfl

/-- Settles O18: the only field written is the reply. -/
theorem diagnosticsReturnTheRecord : Obligations.DiagnosticsReturnTheRecord := by
  unfold Obligations.DiagnosticsReturnTheRecord
  exact fun _ => rfl

/-! ## What the host's stimuli leave alone (R62, R432) -/

/-- Settles O21: an access writes one byte of the bank or of MEM, or the overrun counter; MODE writes the sequencing and FB. -/
theorem hostAccessesLeaveTheCoreAlone : Obligations.HostAccessesLeaveTheCoreAlone := by
  unfold Obligations.HostAccessesLeaveTheCoreAlone
  constructor
  · intro i s t h htick hreset hmode
    cases hostAccess_of_exec h htick hreset hmode with
    | rd | wr | memw | diag => simp
    | overrun => simp [countOverrun]
  · intro m s
    refine ⟨selectMode hw m s, rfl, ?_⟩
    obtain ⟨v, -, -, haccept⟩ | ⟨-, hreject⟩ := selectMode_cases hw m s
    · rw [haccept]
      simp [acceptMode]
    · rw [hreject]
      simp [rejectConfigError]

/-! ## The overrun counter over a run (R437) -/

/-- Only OVERRUN and RESET write the counter. -/
theorem exec_overrun_eq {i : Instr} {s t : State} (h : exec i s = .next t) :
    t.overrun = if i = .reset then 0 else if i = .overrun then s.overrun + 1 else s.overrun := by
  obtain ⟨rfl, rfl⟩ | ⟨m, rfl, rfl⟩ | ⟨rfl, rfl⟩ | hhost := exec_cases h
  · exact tick_overrun hw s
  · obtain ⟨v, -, -, haccept⟩ | ⟨-, hreject⟩ := selectMode_cases hw m s
    · rw [haccept]
      rfl
    · rw [hreject]
      rfl
  · rfl
  · cases hhost with
    | rd n | wr n => fin_cases n <;> rfl
    | memw | overrun | diag => rfl

/-- No stimulus touches the words still pending. -/
theorem exec_stim {i : Instr} {s t : State} (h : exec i s = .next t) : t.stim = s.stim := by
  obtain ⟨-, rfl⟩ | ⟨m, -, rfl⟩ | ⟨-, rfl⟩ | hhost := exec_cases h
  · exact tick_stim hw s
  · obtain ⟨v, -, -, haccept⟩ | ⟨-, hreject⟩ := selectMode_cases hw m s
    · rw [haccept]
      rfl
    · rw [hreject]
      rfl
  · rfl
  · cases hhost with
    | rd | wr | memw | overrun | diag => rfl

/-- A run that completes does so through its first step. -/
theorem run_succ_next {k : Nat} {s t : State} (h : Host.Core.run Sys2Proof.core (k + 1) s = .next t) :
    ∃ u, step s = .next u ∧ Host.Core.run Sys2Proof.core k u = .next t := by
  simp only [Host.Core.run] at h
  split at h
  · next u hu => exact ⟨u, hu, h⟩
  · cases h
  · cases h

/-- What a word does to the overrun counter (R434, R436). -/
def overrunAfter (n : BitVec 32) (w : Word) : BitVec 32 :=
  if w = encode .reset then 0 else if w = encode .overrun then n + 1 else n

theorem exec_overrunAfter {i : Instr} {s t : State} (h : exec i s = .next t) : t.overrun = overrunAfter s.overrun (encode i) := by
  have hword : ∀ j, encode i = encode j ↔ i = j := fun j => ⟨encode_injective, congrArg encode⟩
  simp only [exec_overrun_eq h, overrunAfter, hword]

/-- Settles O19: by induction on the words; each step consumes one word and does to the counter what the word says. -/
theorem overrunCountsTheOverrunsSinceReset : Obligations.OverrunCountsTheOverrunsSinceReset := by
  unfold Obligations.OverrunCountsTheOverrunsSinceReset
  intro ws rest
  induction ws with
  | nil =>
    intro s t hstim h
    cases h
    exact ⟨rfl, hstim⟩
  | cons w ws ih =>
    intro s t hstim h
    obtain ⟨u, hstep, hrun⟩ := run_succ_next h
    obtain ⟨i, rfl, hexec⟩ := exec_of_step hstim hstep
    obtain ⟨hcount, hrest⟩ := ih u t (exec_stim hexec) hrun
    rw [exec_overrunAfter hexec] at hcount
    exact ⟨hcount, hrest⟩

/-! ## The bus bridge (R431) -/

theorem bridgeRegister_of_bank (i : BitVec 4) : bridgeRegister hw (0x9000 + i.setWidth 16) = some i := by
  revert i
  decide

/-- Settles O60: the sixteen addresses of the bank are its registers', and a WR does not touch MEM. -/
theorem busBridgeReachesTheBank : Obligations.BusBridgeReachesTheBank := by
  unfold Obligations.BusBridgeReachesTheBank
  intro i d
  have hwrite : bridgeWrite hw (0x9000 + i.setWidth 16) d = wrInstr i d := by rw [bridgeWrite, bridgeRegister_of_bank]
  have hread : bridgeRead hw (0x9000 + i.setWidth 16) = some (rdInstr i) := by rw [bridgeRead, bridgeRegister_of_bank]; rfl
  refine ⟨hwrite, hread, fun s => ?_⟩
  rw [hwrite]
  exact ⟨_, exec_wrInstr i.toFin d s, State.reg_setReg_same s i.toFin d, rfl⟩

end Sys2Proof.Machine
end

section
/-! PROOFS. The legal states (10_state.md section 2): reset is legal, and TICK, MODE, RESET and every host access keep the legal
states legal. -/

namespace Sys2Proof.Machine

/-- Settles O58: every counter is 0, both memories are empty, and the initial mode passes the check. -/
theorem resetStateIsLegal : Obligations.ResetStateIsLegal where
  hc_lt := by decide
  vc_lt := by decide
  mode_ok := hw_wellFormed.modeInitOk
  pal_field _ := rfl
  fbcol_le := Nat.zero_le _
  fbcol_four := rfl
  ap_lt := hw_wellFormed.presc_pos
  level_le := Nat.zero_le _
  out_width := by simp [State.reset, State.initial]
  mem_wf := rfl
  mem_inside := rfl
  fb_wf := rfl
  fb_inside := rfl

/-! ## The host's stimuli -/

/-- Legality does not speak of the bank, the overrun counter, the pending stimuli and the reply. -/
theorem State.Legal.withHostFields {cfg : Config} {s : State} (h : s.Legal cfg) (regs : Vector Byte 16) (overrun : BitVec 32)
    (stim : List Word) (reply : Reply) :
    ({ s with regs := regs, overrun := overrun, stim := stim, reply := reply } : State).Legal cfg :=
  ⟨h.hc_lt, h.vc_lt, h.mode_ok, h.pal_field, h.fbcol_le, h.fbcol_four, h.ap_lt, h.level_le, h.out_width, h.mem_wf, h.mem_inside,
    h.fb_wf, h.fb_inside⟩

theorem State.Legal.answer {cfg : Config} {s : State} (h : s.Legal cfg) (r : Reply) : (s.answer r).Legal cfg :=
  h.withHostFields s.regs s.overrun s.stim r

theorem State.Legal.setMemByte {cfg : Config} {s : State} (h : s.Legal cfg) (a : MemIx) (d : Byte) :
    (s.setMemByte cfg a d).Legal cfg :=
  { h with
    mem_wf := Memory.wf_write _ _ h.mem_wf
    mem_inside := Memory.within_write _ _ h.mem_inside (decide_eq_true a.isLt) }

theorem State.Legal.hostAccess {s t : State} {i : Instr} (h : s.Legal hw) (hi : HostAccess s i t) : t.Legal hw := by
  cases hi with
  | rd n => exact h.answer _
  | wr n d => exact h.withHostFields (s.regs.set n.val d n.isLt) s.overrun s.stim .ok
  | memw a d => exact (h.setMemByte a d).answer _
  | overrun => exact h.withHostFields s.regs (s.overrun + 1) s.stim .ok
  | diag => exact h.answer _

/-- An accepted mode starts at the top of a frame with column 0, and the framebuffer it keeps is one of its own standard (R432). -/
theorem State.Legal.acceptMode {cfg : Config} {s : State} {v : VideoMode} (h : s.Legal cfg) (hok : cfg.modeOk v = true) :
    (acceptMode v s).Legal cfg where
  hc_lt := (lineCycles_le _).1
  vc_lt := show 0 < maxFrameLines (modeStandard v) by cases modeStandard v <;> decide
  mode_ok := hok
  pal_field _ := rfl
  fbcol_le := Nat.zero_le _
  fbcol_four := rfl
  ap_lt := h.ap_lt
  level_le := h.level_le
  out_width := h.out_width
  mem_wf := h.mem_wf
  mem_inside := h.mem_inside
  fb_wf := by
    unfold Machine.acceptMode
    split
    · exact h.fb_wf
    · rfl
  fb_inside := by
    show Memory.within (fbKeyInside cfg (modeStandard v)) (if modeStandard v = s.standard then s.fb else []) = true
    split
    · next hstandard => exact hstandard ▸ h.fb_inside
    · rfl

theorem State.Legal.selectMode {cfg : Config} {s : State} (h : s.Legal cfg) (m : Byte) : (selectMode cfg m s).Legal cfg := by
  obtain ⟨v, -, hok, haccept⟩ | ⟨-, hreject⟩ := selectMode_cases cfg m s
  · exact haccept ▸ (h.acceptMode hok).answer _
  · exact hreject ▸ h.answer _

/-- RESET leaves the reset state with MEM kept (R434). -/
theorem State.Legal.reinitialise {s : State} (h : s.Legal hw) : (reinitialise hw s).Legal hw :=
  have hreset : State.reset.Legal hw := resetStateIsLegal
  { hreset with mem_wf := h.mem_wf, mem_inside := h.mem_inside }

/-! ## TICK -/

section
variable {cfg : Config} {s : State}

theorem tick_hc_lt (h : s.hc.toNat < lineCycles s.standard) : (tick cfg s).hc.toNat < lineCycles s.standard := by
  have hcycles := lineCycles_le s.standard
  rw [tick_hc]
  split
  · exact hcycles.1
  · rw [hc_succ_toNat (by omega)]
    omega

theorem tick_vc_lt (h : s.vc.toNat < maxFrameLines s.standard) : (tick cfg s).vc.toNat < maxFrameLines s.standard := by
  have hframe := frameLength_range s
  have hlongest : maxFrameLines s.standard ≤ 312 := by cases s.standard <;> decide
  rw [tick_vc_eq]
  split
  · split
    · exact Nat.lt_of_le_of_lt (Nat.zero_le _) h
    · rw [vc_succ_toNat (by omega)]
      omega
  · exact h

theorem tick_pal_field (hpal : s.standard = .pal) (h : s.field = false) : (tick cfg s).field = false := by
  simp [tick_field, hpal, h]

/-- Inside the window fbcol steps with hc, outside it the bound does not shrink before the new line clears fbcol (R411). -/
theorem tick_fbcol_le (hcfg : cfg.WellFormed) (hhc : s.hc.toNat < lineCycles s.standard)
    (h : s.fbcol.toNat ≤ 4 * (min s.hc.toNat (cfg.hvisEnd s.standard) - cfg.hvisStart s.standard)) :
    (tick cfg s).fbcol.toNat ≤ 4 * (min (tick cfg s).hc.toNat (cfg.hvisEnd s.standard) - cfg.hvisStart s.standard) := by
  have hcycles := lineCycles_le s.standard
  have hend := hcfg.hvisEnd_le s.standard
  rw [tick_fbcol, tick_hc]
  by_cases hline : s.hc.toNat + 1 = lineCycles s.standard
  · rw [if_pos hline]
    exact Nat.zero_le _
  rw [if_neg hline, if_neg hline, hc_succ_toNat (by omega)]
  split
  · next hvisible =>
    have hwindow := visible_window hvisible
    have hcolumn : (s.fbcol + 4).toNat = s.fbcol.toNat + 4 := BitVec.toNat_add_of_lt (show s.fbcol.toNat + 4 < 512 by omega)
    omega
  · omega

theorem tick_fbcol_four (h : s.fbcol.toNat % 4 = 0) : (tick cfg s).fbcol.toNat % 4 = 0 := by
  rw [tick_fbcol]
  split
  · rfl
  · split
    · rw [BitVec.toNat_add]
      show (s.fbcol.toNat + 4) % 512 % 4 = 0
      omega
    · exact h

/-- The level lies within 60 of the bias, which is at least 60 (R394). -/
theorem tick_level_le (hcfg : cfg.WellFormed) : (tick cfg s).audioLevel.toNat ≤ 2 * cfg.audioBias := by
  have hexact := mixDown_level cfg hcfg (afterChannels cfg s)
  have hrange := mixLevel_range cfg (afterChannels cfg s)
  have hbias := hcfg.bias_ge
  rw [tick_audioLevel]
  omega

/-- `w` has the width of one of the two standards (R44). -/
def CmdWord.StandardWidth (cfg : Config) (w : CmdWord) : Prop := w.width = cfg.cmdWidth .pal ∨ w.width = cfg.cmdWidth .ntsc

theorem tick_out_width (h : ∀ w ∈ s.out, w.StandardWidth cfg) : ∀ w ∈ (tick cfg s).out, w.StandardWidth cfg := by
  intro w hw
  rw [tick_out, List.mem_append] at hw
  rcases hw with hold | hnew
  · exact h w hold
  · have hwidth := encoderWords_width hnew
    cases hs : s.standard with
    | pal => exact .inl (hs ▸ hwidth)
    | ntsc => exact .inr (hs ▸ hwidth)

theorem foldl_fbPixel_wf (S : Standard) (vc0 fbcol : BitVec 9) (batch : Vector Colour 4) (ks : List (Fin 4)) {fb : Memory}
    (h : fb.wf fbInit = true) : (ks.foldl (fbPixel cfg S vc0 fbcol batch) fb).wf fbInit = true := by
  induction ks generalizing fb with
  | nil => exact h
  | cons k ks ih => exact ih (fbPlot_wf cfg S _ _ _ h)

theorem foldl_fbPixel_within (S : Standard) (vc0 fbcol : BitVec 9) (batch : Vector Colour 4) (ks : List (Fin 4)) {fb : Memory}
    (h : fb.within (fbKeyInside cfg S) = true) :
    (ks.foldl (fbPixel cfg S vc0 fbcol batch) fb).within (fbKeyInside cfg S) = true := by
  induction ks generalizing fb with
  | nil => exact h
  | cons k ks ih => exact ih (fbPlot_within cfg S _ _ _ h)

theorem tick_fb_wf (h : s.fb.wf fbInit = true) : (tick cfg s).fb.wf fbInit = true := by
  rw [tick_fb]
  split
  · exact foldl_fbPixel_wf _ _ _ _ _ h
  · exact h

theorem tick_fb_inside (h : s.fb.within (fbKeyInside cfg s.standard) = true) :
    (tick cfg s).fb.within (fbKeyInside cfg s.standard) = true := by
  rw [tick_fb]
  split
  · exact foldl_fbPixel_within _ _ _ _ _ h
  · exact h

theorem State.Legal.tick (hcfg : cfg.WellFormed) (h : s.Legal cfg) : (tick cfg s).Legal cfg where
  hc_lt := by rw [tick_standard]; exact tick_hc_lt h.hc_lt
  vc_lt := by rw [tick_standard]; exact tick_vc_lt h.vc_lt
  mode_ok := by rw [tick_mode]; exact h.mode_ok
  pal_field hpal := by rw [tick_standard] at hpal; exact tick_pal_field hpal (h.pal_field hpal)
  fbcol_le := by rw [tick_standard]; exact tick_fbcol_le hcfg h.hc_lt h.fbcol_le
  fbcol_four := tick_fbcol_four h.fbcol_four
  ap_lt := by rw [tick_ap]; exact Nat.mod_lt _ hcfg.presc_pos
  level_le := tick_level_le hcfg
  out_width := tick_out_width h.out_width
  mem_wf := by rw [tick_mem]; exact h.mem_wf
  mem_inside := by rw [tick_mem]; exact h.mem_inside
  fb_wf := tick_fb_wf h.fb_wf
  fb_inside := by rw [tick_standard]; exact tick_fb_inside h.fb_inside

end

/-! ## The step -/

theorem State.Legal.exec {i : Instr} {s t : State} (h : s.Legal hw) (hi : exec i s = .next t) : t.Legal hw := by
  obtain ⟨-, rfl⟩ | ⟨m, -, rfl⟩ | ⟨-, rfl⟩ | hhost := exec_cases hi
  · exact (h.tick hw_wellFormed).answer _
  · exact h.selectMode m
  · exact h.reinitialise.answer _
  · exact h.hostAccess hhost

/-- Settles O57: a step waits, or runs one stimulus on the state without its word, and each kind of stimulus keeps legality. -/
theorem legalStatesStayLegal : Obligations.LegalStatesStayLegal := by
  unfold Obligations.LegalStatesStayLegal
  intro s t h hstep
  cases hstim : s.stim with
  | nil =>
    rw [step_of_empty hstim] at hstep
    cases hstep
    exact h
  | cons w rest =>
    obtain ⟨i, -, hexec⟩ := exec_of_step hstim hstep
    exact (h.withHostFields s.regs s.overrun rest s.reply).exec hexec

end Sys2Proof.Machine
end

section
/-! PROOFS. What a TICK leaves alone, the vertical counter, the raster readback, parity, field and column, and the line classes
(41_cycle_tick.md R255 to R262, 20_memory.md R81). -/

namespace Sys2Proof.Machine

/-- Settles O22: no pass writes those fields, and the raster update writes R4 and the high bit of R3. -/
theorem tickFrame : Obligations.TickFrame := by
  unfold Obligations.TickFrame
  intro s
  exact ⟨(tick hw s).answer .ok, rfl, rfl, tick_mode hw s, tick_overrun hw s, tick_mem hw s,
    fun a => congrArg (Memory.read hw.memInit · a.toNat) (tick_mem hw s), tick_stim hw s,
    tick_reg_other hw s, tick_reg_three_low hw s⟩

/-- Settles O24: the vertical phase is the only writer of vc, and FRAME_LINES is R255's count. -/
theorem verticalCounterAdvancesOncePerLine : Obligations.VerticalCounterAdvancesOncePerLine := by
  unfold Obligations.VerticalCounterAdvancesOncePerLine
  intro s
  refine ⟨(tick hw s).answer .ok, rfl, ?_⟩
  rw [State.answer_vc, tick_vc_eq, State.frameLength, State.interlace]
  cases s.standard with
  | pal => rfl
  | ntsc => cases (s.reg 0).getLsbD 7 <;> rfl

/-! ## The raster readback (R258) -/

theorem extract_append_low_bit (v : BitVec 9) : v.extractLsb' 1 8 ++ BitVec.ofBool (v.getLsbD 0) = v := by
  refine BitVec.eq_of_getLsbD_eq fun i hi => ?_
  rw [BitVec.getLsbD_append]
  cases i with
  | zero => simp
  | succ i =>
    have hi8 : i < 8 := by omega
    simp [hi8, Nat.add_comm]

theorem tick_regs_of_not_raster {cfg : Config} {s : State} (h : s.hc.toNat ≠ cfg.hcRaster s.standard) :
    (tick cfg s).regs = s.regs := by
  rw [tick_regs, rasterPhase, cyclePasses_standard, if_neg h, cyclePasses_regs]

theorem tick_reg_of_raster {cfg : Config} {s : State} (h : s.hc.toNat = cfg.hcRaster s.standard) (n : RegIx) :
    (tick cfg s).reg n = (rasterUpdate (cyclePasses cfg s)).reg n := by
  rw [tick_reg, rasterPhase, cyclePasses_standard, if_pos h]

theorem tick_reg_four_of_raster {cfg : Config} {s : State} (h : s.hc.toNat = cfg.hcRaster s.standard) :
    (tick cfg s).reg 4 = s.vc.extractLsb' 1 8 := by
  rw [tick_reg_of_raster h, rasterUpdate_reg_four, cyclePasses_vc]

theorem tick_reg_three_high_of_raster {cfg : Config} {s : State} (h : s.hc.toNat = cfg.hcRaster s.standard) :
    ((tick cfg s).reg 3).getLsbD 7 = s.vc.getLsbD 0 := by
  rw [tick_reg_of_raster h, rasterUpdate_reg_three, withRasterLsb_high, cyclePasses_vc]

theorem tick_rasterReadback_of_raster {cfg : Config} {s : State} (h : s.hc.toNat = cfg.hcRaster s.standard) :
    (tick cfg s).rasterReadback = s.vc := by
  rw [State.rasterReadback, tick_reg_four_of_raster h, tick_reg_three_high_of_raster h, extract_append_low_bit]

/-- Settles O25: the raster phase is the only writer of the bank in a TICK. -/
theorem rasterReadbackTakesTheLineOfTheCycle : Obligations.RasterReadbackTakesTheLineOfTheCycle := by
  unfold Obligations.RasterReadbackTakesTheLineOfTheCycle
  intro s
  exact ⟨(tick hw s).answer .ok, rfl,
    fun h => ⟨tick_rasterReadback_of_raster h, tick_reg_four_of_raster h, tick_reg_three_high_of_raster h,
      tick_reg_three_low hw s, tick_reg_other hw s⟩,
    tick_regs_of_not_raster⟩

/-- Settles O26: the new line writes the parity and fbcol, the frame start the field, and the framebuffer writer fbcol. -/
theorem parityAndFieldToggle : Obligations.ParityAndFieldToggle := by
  unfold Obligations.ParityAndFieldToggle
  intro s
  exact ⟨(tick hw s).answer .ok, rfl, tick_lineParity hw s, tick_field hw s, tick_fbcol hw s⟩

/-! ## Line classes and visible cycles (R256, R257) -/

section
variable (cfg : Config) (S : Standard) (vc : BitVec 9)

theorem lineClass_of_lt_visEnd (h : vc.toNat < visEnd cfg S) : lineClass cfg S vc = .visible := by
  rw [lineClass, if_pos h]

theorem lineClass_of_lt_vsyncEnd (h : visEnd cfg S ≤ vc.toNat) (h' : vc.toNat < vsyncEnd cfg S) :
    lineClass cfg S vc = .vsync := by
  rw [lineClass, if_neg (Nat.not_lt.2 h), if_pos h']

theorem lineClass_of_vsyncEnd_le (h : visEnd cfg S ≤ vc.toNat) (h' : vsyncEnd cfg S ≤ vc.toNat) :
    lineClass cfg S vc = .vblank := by
  rw [lineClass, if_neg (Nat.not_lt.2 h), if_neg (Nat.not_lt.2 h')]

theorem lineClass_eq_visible_iff : lineClass cfg S vc = .visible ↔ vc.toNat < visEnd cfg S := by
  refine ⟨fun h => Nat.lt_of_not_le fun hle => ?_, lineClass_of_lt_visEnd cfg S vc⟩
  rcases Nat.lt_or_ge vc.toNat (vsyncEnd cfg S) with hlt | hge
  · rw [lineClass_of_lt_vsyncEnd cfg S vc hle hlt] at h
    cases h
  · rw [lineClass_of_vsyncEnd_le cfg S vc hle hge] at h
    cases h

theorem visible_iff (hc : BitVec 7) :
    visible cfg S hc vc = true ↔ vc.toNat < visEnd cfg S ∧ cfg.hvisStart S ≤ hc.toNat ∧ hc.toNat < cfg.hvisEnd S := by
  simp only [visible, Bool.and_eq_true, decide_eq_true_eq, lineClass_eq_visible_iff, and_assoc]

end

/-- Settles O27: VIS_END and VSYNC_END are R256's thresholds. -/
theorem lineClassesAndVisibleCycles : Obligations.LineClassesAndVisibleCycles := by
  unfold Obligations.LineClassesAndVisibleCycles
  rintro cfg S vc hc _ _ rfl rfl
  have hclasses := fun S => And.intro (lineClass_of_lt_visEnd cfg S vc) (And.intro (lineClass_of_lt_vsyncEnd cfg S vc)
    (And.intro (lineClass_of_vsyncEnd_le cfg S vc) (visible_iff cfg S vc hc)))
  cases S with
  | pal => exact hclasses .pal
  | ntsc => exact hclasses .ntsc

end Sys2Proof.Machine
end

section
/-! PROOFS. The transition table and the side effects of the fetch machine in a TICK (42_fetch_fsm.md R290 to R302), and the cell
counters that the row accounting leaves (41_cycle_tick.md R261 to R263). -/

namespace Sys2Proof.Machine

/-! ## The fetch pass, field by field -/

/-- The Y comparison holds in OUTSIDE_MATRIX, so that the fetch pass opens the matrix (R291). -/
abbrev YMatches (vc0 : BitVec 9) (s : State) : Prop := s.fstate = .outsideMatrix ∧ vc0.toNat / 2 = s.originY.toNat

/-- The fetch state after the fetch pass (R302, its column of transitions without the line and frame events). -/
def nextFetch (hc0 : BitVec 7) (vc0 : BitVec 9) (s : State) : FetchState :=
  match s.fstate with
  | .outsideMatrix => if vc0.toNat / 2 = s.originY.toNat then .inMatrixY else .outsideMatrix
  | .inMatrixY => if hc0 = s.originX then .matrixDly1 else .inMatrixY
  | .inMatrixX => if hc0 = s.originX then .matrixDly1 else .inMatrixX
  | .matrixDly1 => .matrixDly2
  | .matrixDly2 => .matrixDly3
  | .matrixDly3 => fetchOrRest s.hcc
  | .screenCode => .charData
  | .charData => fetchOrRest (s.hcc - 1)
  | .matrixLine => .matrixLine

section
variable (cfg : Config) (hc0 : BitVec 7) (vc0 : BitVec 9) {s : State}

theorem fetchPass_outsideMatrix (h : s.fstate = .outsideMatrix) : fetchPass cfg hc0 vc0 s = yCompare vc0 s := by
  simp only [fetchPass, h]

theorem fetchPass_xCompare (h : s.fstate = .inMatrixY ∨ s.fstate = .inMatrixX) : fetchPass cfg hc0 vc0 s = xCompare hc0 s := by
  rcases h with h | h <;> simp only [fetchPass, h]

theorem fetchPass_matrixDly3 (h : s.fstate = .matrixDly3) : fetchPass cfg hc0 vc0 s = { s with fstate := fetchOrRest s.hcc } := by
  simp only [fetchPass, h]

theorem fetchPass_of_yMatches (h : YMatches vc0 s) : fetchPass cfg hc0 vc0 s = matrixOpen s := by
  rw [fetchPass_outsideMatrix cfg hc0 vc0 h.1, yCompare, if_pos h.2]

/-- But for the Y match, SCREEN_CODE and CHAR_DATA the fetch pass only moves the fetch state (R291, R293, R295, R296, R301). -/
theorem fetchPass_only_moves (hy : ¬ YMatches vc0 s) (hs : s.fstate ≠ .screenCode) (hc : s.fstate ≠ .charData) :
    fetchPass cfg hc0 vc0 s = { s with fstate := nextFetch hc0 vc0 s } := by
  cases hf : s.fstate with
  | outsideMatrix =>
    have hy : ¬ vc0.toNat / 2 = s.originY.toNat := fun h => hy ⟨hf, h⟩
    have hnext : nextFetch hc0 vc0 s = s.fstate := by simp only [nextFetch, hf, if_neg hy]
    rw [fetchPass_outsideMatrix cfg hc0 vc0 hf, yCompare, if_neg hy, hnext]
  | inMatrixY | inMatrixX =>
    have hnext : nextFetch hc0 vc0 s = if hc0 = s.originX then .matrixDly1 else s.fstate := by simp only [nextFetch, hf]
    rw [fetchPass_xCompare cfg hc0 vc0 (by simp [hf]), xCompare, hnext]
    split <;> rfl
  | matrixDly1 => rw [fetchPass_matrixDly1 cfg hc0 vc0 hf, nextFetch, hf]
  | matrixDly2 => rw [fetchPass_matrixDly2 cfg hc0 vc0 hf, nextFetch, hf]
  | matrixDly3 => rw [fetchPass_matrixDly3 cfg hc0 vc0 hf, nextFetch, hf]
  | screenCode => exact absurd hf hs
  | charData => exact absurd hf hc
  | matrixLine =>
    have hnext : nextFetch hc0 vc0 s = s.fstate := by simp only [nextFetch, hf]
    rw [fetchPass_matrixLine cfg hc0 vc0 hf, hnext]

variable (s)

/-- All that the fetch pass can do: open the matrix, one of the two fetches, or move the fetch state. -/
theorem fetchPass_cases :
    (YMatches vc0 s ∧ fetchPass cfg hc0 vc0 s = matrixOpen s) ∨
    (s.fstate = .screenCode ∧ fetchPass cfg hc0 vc0 s = screenCodeFetch cfg s) ∨
    (s.fstate = .charData ∧ fetchPass cfg hc0 vc0 s = charDataFetch cfg s) ∨
    (¬ YMatches vc0 s ∧ s.fstate ≠ .screenCode ∧ s.fstate ≠ .charData ∧
      fetchPass cfg hc0 vc0 s = { s with fstate := nextFetch hc0 vc0 s }) := by
  by_cases hy : YMatches vc0 s
  · exact .inl ⟨hy, fetchPass_of_yMatches cfg hc0 vc0 hy⟩
  by_cases hs : s.fstate = .screenCode
  · exact .inr (.inl ⟨hs, fetchPass_screenCode cfg hc0 vc0 hs⟩)
  by_cases hc : s.fstate = .charData
  · exact .inr (.inr (.inl ⟨hc, fetchPass_charData cfg hc0 vc0 hc⟩))
  exact .inr (.inr (.inr ⟨hy, hs, hc, fetchPass_only_moves cfg hc0 vc0 hy hs hc⟩))

theorem fetchPass_fstate : (fetchPass cfg hc0 vc0 s).fstate = nextFetch hc0 vc0 s := by
  obtain ⟨⟨hs, hy⟩, h⟩ | ⟨hs, h⟩ | ⟨hs, h⟩ | ⟨-, -, -, h⟩ := fetchPass_cases cfg hc0 vc0 s
  · simp [h, nextFetch, hs, hy, matrixOpen]
  · simp [h, nextFetch, hs, screenCodeFetch]
  · simp [h, nextFetch, hs, charDataFetch]
  · rw [h]

theorem fetchPass_hcc : (fetchPass cfg hc0 vc0 s).hcc = if s.fstate = .charData then s.hcc - 1 else s.hcc := by
  obtain ⟨⟨hs, -⟩, h⟩ | ⟨hs, h⟩ | ⟨hs, h⟩ | ⟨-, -, hs, h⟩ := fetchPass_cases cfg hc0 vc0 s
  · simp [h, hs]
  · simp [h, hs, screenCodeFetch]
  · simp [h, hs, charDataFetch]
  · simp [h, hs]

theorem fetchPass_vmc :
    (fetchPass cfg hc0 vc0 s).vmc =
      if YMatches vc0 s then 0 else if s.fstate = .charData then s.vmc + 1 else s.vmc := by
  obtain ⟨hy, h⟩ | ⟨hs, h⟩ | ⟨hs, h⟩ | ⟨hy, -, hs, h⟩ := fetchPass_cases cfg hc0 vc0 s
  · simp [h, hy, matrixOpen]
  · simp [h, hs, screenCodeFetch]
  · simp [h, hs, charDataFetch]
  · rw [h, if_neg hy, if_neg hs]

theorem fetchPass_vcc : (fetchPass cfg hc0 vc0 s).vcc = if YMatches vc0 s then s.rows else s.vcc := by
  obtain ⟨hy, h⟩ | ⟨hs, h⟩ | ⟨hs, h⟩ | ⟨hy, -, hs, h⟩ := fetchPass_cases cfg hc0 vc0 s
  · simp [h, hy, matrixOpen]
  · simp [h, hs, screenCodeFetch]
  · simp [h, hs, charDataFetch]
  · rw [h, if_neg hy]

theorem fetchPass_cdc : (fetchPass cfg hc0 vc0 s).cdc = if YMatches vc0 s then 0 else s.cdc := by
  obtain ⟨hy, h⟩ | ⟨hs, h⟩ | ⟨hs, h⟩ | ⟨hy, -, hs, h⟩ := fetchPass_cases cfg hc0 vc0 s
  · simp [h, hy, matrixOpen]
  · simp [h, hs, screenCodeFetch]
  · simp [h, hs, charDataFetch]
  · rw [h, if_neg hy]

theorem fetchPass_vmcl : (fetchPass cfg hc0 vc0 s).vmcl = if YMatches vc0 s then 0 else s.vmcl := by
  obtain ⟨hy, h⟩ | ⟨hs, h⟩ | ⟨hs, h⟩ | ⟨hy, -, hs, h⟩ := fetchPass_cases cfg hc0 vc0 s
  · simp [h, hy, matrixOpen]
  · simp [h, hs, screenCodeFetch]
  · simp [h, hs, charDataFetch]
  · rw [h, if_neg hy]

end

theorem xMatched_fetchOrRest (hcc : BitVec 7) : xMatched (fetchOrRest hcc) = true := by
  unfold fetchOrRest
  split <;> rfl

/-- X has matched once the fetch pass is past the two states that wait for it, be it by this very pass (R263, R293). -/
theorem xMatched_nextFetch_iff {hc0 : BitVec 7} (vc0 : BitVec 9) {s : State} :
    xMatched (nextFetch hc0 vc0 s) = true ↔
      s.fstate = .matrixLine ∨ s.fstate = .matrixDly1 ∨ s.fstate = .matrixDly2 ∨ s.fstate = .matrixDly3 ∨
        s.fstate = .screenCode ∨ s.fstate = .charData ∨ (s.fstate = .inMatrixY ∨ s.fstate = .inMatrixX) ∧ hc0 = s.originX := by
  cases hs : s.fstate with
  | outsideMatrix =>
    simp only [nextFetch, hs]
    split <;> simp [xMatched]
  | inMatrixY | inMatrixX =>
    simp only [nextFetch, hs]
    split
    · next hx => simp [xMatched, hx]
    · next hx => simp [xMatched, hx]
  | matrixDly3 | charData => simp [nextFetch, hs, xMatched_fetchOrRest]
  | matrixDly1 | matrixDly2 | screenCode | matrixLine => simp [nextFetch, hs, xMatched]

/-! ## The fetch machine's fields after a TICK -/

/-- The line's last cycle, whose new-line event runs the row accounting (R259, R262). -/
abbrev LineEnds (s : State) : Prop := s.hc.toNat + 1 = lineCycles s.standard

/-- A character row advances in this cycle: the line ends, no frame starts, and X has matched on the line (R263). -/
abbrev RowAdvances (cfg : Config) (s : State) : Prop :=
  LineEnds s ∧ ¬ FrameStarts cfg s ∧ xMatched (nextFetch s.hc s.vc s) = true

/-- The state that the row accounting of a line's last cycle gets (R262). -/
def beforeRowAccounting (cfg : Config) (s : State) : State := lineReload { beforeLinePhase cfg s with hc := 0 }

section
variable (cfg : Config) {s : State}

theorem tick_of_line_end (hline : LineEnds s) : tick cfg s = rowAccounting (beforeRowAccounting cfg s) := by
  rw [tick_eq_linePhase, linePhase, beforeLinePhase_standard, if_pos hline]
  rfl

variable (s)

theorem beforeRowAccounting_cellHeight : (beforeRowAccounting cfg s).cellHeight = s.cellHeight :=
  beforeLinePhase_cellHeight cfg s

theorem beforeRowAccounting_fstate :
    (beforeRowAccounting cfg s).fstate = if FrameStarts cfg s then .outsideMatrix else nextFetch s.hc s.vc s :=
  (beforeLinePhase_fstate cfg s).trans (by rw [fetchPass_fstate]; rfl)

theorem xMatched_beforeRowAccounting :
    xMatched (beforeRowAccounting cfg s).fstate = true ↔ ¬ FrameStarts cfg s ∧ xMatched (nextFetch s.hc s.vc s) = true := by
  rw [beforeRowAccounting_fstate]
  by_cases hframe : FrameStarts cfg s
  · rw [if_pos hframe]
    exact ⟨nofun, fun h => absurd hframe h.1⟩
  · rw [if_neg hframe]
    exact ⟨fun h => ⟨hframe, h⟩, And.right⟩

theorem tick_hcc :
    (tick cfg s).hcc = if LineEnds s then s.columns else if s.fstate = .charData then s.hcc - 1 else s.hcc := by
  by_cases hline : LineEnds s
  · have hcolumns : (beforeLinePhase cfg s).columns = s.columns := by
      simp only [State.columns, beforeLinePhase, State.reg_congr (verticalPhase_regs ..),
        rasterPhase_reg_other cfg s.hc _ 2 (by decide) (by decide), cyclePasses_reg]
    rw [tick_of_line_end cfg hline, rowAccounting_hcc, if_pos hline]
    exact hcolumns
  · rw [tick_of_not_line_end cfg hline, if_neg hline]
    simp only [beforeLinePhase, verticalPhase_hcc, rasterPhase_hcc, cyclePasses_hcc, fetchPass_hcc]
    rfl

/-- The Y match does not count as a match of X (R263, R292). -/
theorem not_yMatches_of_rowAdvances {s : State} (h : RowAdvances cfg s) : ¬ YMatches s.vc s := by
  rintro ⟨hs, hy⟩
  have hmatched := h.2.2
  simp [nextFetch, hs, hy, xMatched] at hmatched

/-- The cell counters that the row accounting gets are the fetch pass's. -/
theorem beforeRowAccounting_counters :
    (beforeRowAccounting cfg s).cdc = (fetchPass cfg s.hc s.vc (pixelRefill s)).cdc ∧
    (beforeRowAccounting cfg s).vcc = (fetchPass cfg s.hc s.vc (pixelRefill s)).vcc ∧
    (beforeRowAccounting cfg s).vmc = (fetchPass cfg s.hc s.vc (pixelRefill s)).vmc ∧
    (beforeRowAccounting cfg s).vmcl = (fetchPass cfg s.hc s.vc (pixelRefill s)).vmcl := by
  simp [beforeRowAccounting, lineReload, beforeLinePhase]

variable {s}

theorem beforeRowAccounting_counters_of_rowAdvances (h : RowAdvances cfg s) :
    (beforeRowAccounting cfg s).cdc = s.cdc ∧ (beforeRowAccounting cfg s).vcc = s.vcc ∧
    (beforeRowAccounting cfg s).vmc = (if s.fstate = .charData then s.vmc + 1 else s.vmc) ∧
    (beforeRowAccounting cfg s).vmcl = s.vmcl := by
  have hy : ¬ YMatches s.vc (pixelRefill s) := not_yMatches_of_rowAdvances cfg h
  obtain ⟨hcdc, hvcc, hvmc, hvmcl⟩ := beforeRowAccounting_counters cfg s
  rw [hcdc, hvcc, hvmc, hvmcl, fetchPass_cdc, fetchPass_vcc, fetchPass_vmc, fetchPass_vmcl, if_neg hy, if_neg hy, if_neg hy,
    if_neg hy]
  exact ⟨rfl, rfl, rfl, rfl⟩

/-- A character row advances: its last line ends it, and every other line continues it (R263). -/
theorem tick_of_rowAdvances (h : RowAdvances cfg s) :
    tick cfg s = if s.cellHeight ≤ s.cdc.toNat + 1 then rowEnd (beforeRowAccounting cfg s)
      else rowContinue (beforeRowAccounting cfg s) := by
  have hmatched := (xMatched_beforeRowAccounting cfg s).2 h.2
  rw [tick_of_line_end cfg h.1, rowAccounting, if_pos hmatched, beforeRowAccounting_cellHeight,
    (beforeRowAccounting_counters_of_rowAdvances cfg h).1]

/-- Where no row advances the row counters are the fetch pass's. -/
theorem tick_counters_of_not_rowAdvances (h : ¬ RowAdvances cfg s) :
    (tick cfg s).cdc = (fetchPass cfg s.hc s.vc (pixelRefill s)).cdc ∧
    (tick cfg s).vcc = (fetchPass cfg s.hc s.vc (pixelRefill s)).vcc ∧
    (tick cfg s).vmc = (fetchPass cfg s.hc s.vc (pixelRefill s)).vmc ∧
    (tick cfg s).vmcl = (fetchPass cfg s.hc s.vc (pixelRefill s)).vmcl := by
  by_cases hline : LineEnds s
  · have hmatched : ¬ xMatched (beforeRowAccounting cfg s).fstate = true :=
      fun hm => h ⟨hline, (xMatched_beforeRowAccounting cfg s).1 hm⟩
    rw [tick_of_line_end cfg hline, rowAccounting, if_neg hmatched]
    exact beforeRowAccounting_counters cfg s
  · rw [tick_of_not_line_end cfg hline]
    simp [beforeLinePhase]

variable (s)

theorem tick_cdc :
    (tick cfg s).cdc =
      if RowAdvances cfg s then if s.cellHeight ≤ s.cdc.toNat + 1 then 0 else s.cdc + 1
      else if YMatches s.vc s then 0 else s.cdc := by
  by_cases hrow : RowAdvances cfg s
  · obtain ⟨hcdc, -⟩ := beforeRowAccounting_counters_of_rowAdvances cfg hrow
    rw [if_pos hrow, tick_of_rowAdvances cfg hrow, ← hcdc]
    split <;> rfl
  · rw [if_neg hrow, (tick_counters_of_not_rowAdvances cfg hrow).1, fetchPass_cdc]
    rfl

theorem tick_vcc :
    (tick cfg s).vcc =
      if RowAdvances cfg s then if s.cellHeight ≤ s.cdc.toNat + 1 then s.vcc - 1 else s.vcc
      else if YMatches s.vc s then s.rows else s.vcc := by
  by_cases hrow : RowAdvances cfg s
  · obtain ⟨-, hvcc, -⟩ := beforeRowAccounting_counters_of_rowAdvances cfg hrow
    rw [if_pos hrow, tick_of_rowAdvances cfg hrow, ← hvcc]
    split <;> rfl
  · rw [if_neg hrow, (tick_counters_of_not_rowAdvances cfg hrow).2.1, fetchPass_vcc]
    rfl

/-- The fetch state after a TICK: the fetch pass's transition, then the frame start, then the row accounting (R302). -/
theorem tick_fstate :
    (tick cfg s).fstate =
      if FrameStarts cfg s then .outsideMatrix
      else if LineEnds s ∧ xMatched (nextFetch s.hc s.vc s) = true then
        if s.cellHeight ≤ s.cdc.toNat + 1 ∧ s.vcc - 1 = 0 then .outsideMatrix else .inMatrixX
      else nextFetch s.hc s.vc s := by
  by_cases hrow : RowAdvances cfg s
  · obtain ⟨-, hvcc, -⟩ := beforeRowAccounting_counters_of_rowAdvances cfg hrow
    rw [if_neg hrow.2.1, if_pos ⟨hrow.1, hrow.2.2⟩, tick_of_rowAdvances cfg hrow]
    split
    · next hend => simp only [rowEnd, hvcc, hend, true_and]
    · next hend => simp only [rowContinue, hend, false_and, if_false]
  · have hfetched : (tick cfg s).fstate = if FrameStarts cfg s then .outsideMatrix else nextFetch s.hc s.vc s := by
      by_cases hline : LineEnds s
      · have hmatched : ¬ xMatched (beforeRowAccounting cfg s).fstate = true :=
          fun hm => hrow ⟨hline, (xMatched_beforeRowAccounting cfg s).1 hm⟩
        rw [tick_of_line_end cfg hline, rowAccounting, if_neg hmatched, beforeRowAccounting_fstate]
      · rw [tick_of_not_line_end cfg hline]
        exact beforeRowAccounting_fstate cfg s
    rw [hfetched]
    by_cases hframe : FrameStarts cfg s
    · rw [if_pos hframe, if_pos hframe]
    · rw [if_neg hframe, if_neg hframe, if_neg fun h => hrow ⟨h.1, hframe, h.2⟩]

/-- Outside the matrix and without a Y match the fetch machine stays outside (R291). -/
theorem tick_fstate_of_outsideMatrix {s : State} (hs : s.fstate = .outsideMatrix) (hy : ¬ YMatches s.vc s) :
    (tick cfg s).fstate = .outsideMatrix := by
  have hnext : nextFetch s.hc s.vc s = .outsideMatrix := by
    simp only [nextFetch, hs, if_neg fun h => hy ⟨hs, h⟩]
  rw [tick_fstate, hnext]
  split
  · rfl
  · exact if_neg fun h => nomatch h.2

end

/-! ## The obligations on one TICK -/

/-- Settles O29: the Y match opens the matrix, and its state is not one in which the new line accounts for a row. -/
theorem yMatchOpensTheMatrix : Obligations.YMatchOpensTheMatrix := by
  unfold Obligations.YMatchOpensTheMatrix
  intro s hs hy
  have hmatch : YMatches s.vc s := ⟨hs, hy⟩
  have hfetch : fetchPass hw s.hc s.vc (pixelRefill s) = matrixOpen (pixelRefill s) := fetchPass_of_yMatches hw _ _ hmatch
  have hnext : nextFetch s.hc s.vc s = .inMatrixY := by simp only [nextFetch, hs, hy, State.originY, if_true]
  have hrow : ¬ RowAdvances hw s := fun h => not_yMatches_of_rowAdvances hw h hmatch
  obtain ⟨hcdc, hvcc, hvmc, hvmcl⟩ := tick_counters_of_not_rowAdvances hw hrow
  rw [hfetch] at hcdc hvcc hvmc hvmcl
  refine ⟨(tick hw s).answer .ok, rfl, ?_, hvcc, hcdc, hvmc, hvmcl, ?_, ?_, ?_, ?_⟩
  · rw [State.answer_fstate, tick_fstate, hnext, if_neg (c := LineEnds s ∧ _) (fun h => nomatch h.2)]
  · rw [State.answer_hcc, tick_hcc, if_neg (c := s.fstate = .charData) (by simp [hs])]
    rfl
  · rw [State.answer_code, tick_code, hfetch]
    rfl
  · rw [State.answer_colr, tick_colr, hfetch]
    rfl
  · rw [State.answer_pipe, tick_pipe, hfetch]
    rfl

/-- Settles O32: a row that advances ends or continues; where none does, the counters are the fetch pass's. -/
theorem rowAccountingAdvancesTheCell : Obligations.RowAccountingAdvancesTheCell := by
  unfold Obligations.RowAccountingAdvancesTheCell
  rintro s matched m hline hy hmatched rfl
  have hnext := xMatched_nextFetch_iff (hc0 := s.hc) s.vc (s := s)
  have hrow : matched ↔ RowAdvances hw s :=
    hmatched.trans ⟨fun h => ⟨hline, h.2, hnext.2 h.1⟩, fun h => ⟨hnext.1 h.2.2, h.2.1⟩⟩
  refine ⟨(tick hw s).answer .ok, rfl, ?_, ?_, ?_, ?_⟩
  · rw [State.answer_hcc, tick_hcc, if_pos hline]
    rfl
  · intro hm hend
    obtain ⟨hcdc, hvcc, hvmc, hvmcl⟩ := beforeRowAccounting_counters_of_rowAdvances hw (hrow.1 hm)
    have htick := (tick_of_rowAdvances hw (hrow.1 hm)).trans (if_pos hend)
    rw [htick]
    exact ⟨rfl, hvmc, hvmc, congrArg (· - 1) hvcc⟩
  · intro hm hcont
    obtain ⟨hcdc, hvcc, hvmc, hvmcl⟩ := beforeRowAccounting_counters_of_rowAdvances hw (hrow.1 hm)
    have htick := (tick_of_rowAdvances hw (hrow.1 hm)).trans (if_neg (Nat.not_le.2 hcont))
    rw [htick]
    exact ⟨congrArg (· + 1) hcdc, hvmcl, hvmcl, hvcc⟩
  · intro hm
    obtain ⟨hcdc, hvcc, hvmc, hvmcl⟩ := tick_counters_of_not_rowAdvances hw fun h => hm (hrow.2 h)
    have hy : ¬ YMatches s.vc (pixelRefill s) := hy
    rw [fetchPass_cdc, if_neg hy] at hcdc
    rw [fetchPass_vcc, if_neg hy] at hvcc
    rw [fetchPass_vmc, if_neg hy] at hvmc
    rw [fetchPass_vmcl, if_neg hy] at hvmcl
    exact ⟨hcdc, hvmcl, hvmc, hvcc⟩

/-- Settles O28: the fetch pass moves the state, then the frame start, then the row accounting of a state in which X has matched. -/
theorem fetchStateFollowsTheTransitionTable : Obligations.FetchStateFollowsTheTransitionTable := by
  unfold Obligations.FetchStateFollowsTheTransitionTable
  intro s
  refine ⟨(tick hw s).answer .ok, rfl, fun hquiet => ?_, ?_⟩
  · have hfetch : fetchPass hw s.hc s.vc (pixelRefill s) =
        { pixelRefill s with fstate := nextFetch s.hc s.vc (pixelRefill s) } := by
      apply fetchPass_only_moves
      · rintro ⟨hs : s.fstate = .outsideMatrix, hy⟩
        obtain ⟨-, hne⟩ | hs' | hs' | hs' := hquiet
        · exact hne hy
        all_goals simp [hs] at hs'
      all_goals
        obtain ⟨hs, -⟩ | hs | hs | hs := hquiet
        all_goals simp [hs]
    obtain ⟨hcode, hcolr, hpipe⟩ := tick_latches_of_fetch_only_moves hw hfetch
    exact ⟨hcode, hcolr, hpipe, fun hline => (tick_counters_of_fetch_only_moves hw hfetch hline).2⟩
  · extract_lets fetched
    have hfetched : fetched = nextFetch s.hc s.vc s := by
      simp only [fetched, nextFetch, BitVec.toNat_ushiftRight, Nat.shiftRight_one]
      cases s.fstate <;> rfl
    clear_value fetched
    rw [State.answer_fstate, tick_fstate, ← hfetched]
    by_cases hframe : FrameStarts hw s
    · rw [if_pos hframe, if_pos hframe]
    rw [if_neg hframe, if_neg hframe]
    by_cases hline : LineEnds s
    · rw [if_pos hline]
      cases fetched with
      | outsideMatrix | inMatrixY | inMatrixX => exact if_neg fun h => nomatch h.2
      | matrixLine | matrixDly1 | matrixDly2 | matrixDly3 | screenCode | charData => exact if_pos ⟨hline, rfl⟩
    · rw [if_neg hline, if_neg fun h => hline h.1]

end Sys2Proof.Machine
end

section
/-! PROOFS. The addresses of the two fetches as numbers (20_memory.md R93, R95; 42_fetch_fsm.md R297, R299), and what a fetching TICK
latches, loads and counts (R298, R300). -/

namespace Sys2Proof.Machine

/-! ## Addresses as numbers -/

theorem ofBool_toNat (b : Bool) : (BitVec.ofBool b).toNat = if b then 1 else 0 := by
  cases b <;> rfl

section
variable (s : State)

theorem screenBase_toNat : s.screenBase.toNat = (s.reg 5).toNat / 16 := by
  have hbyte := (s.reg 5).isLt
  rw [State.screenBase, BitVec.extractLsb'_toNat, Nat.shiftRight_eq_div_pow]
  omega

theorem charBase_toNat : s.charBase.toNat = (s.reg 5).toNat % 16 := by
  rw [State.charBase, BitVec.extractLsb'_toNat, Nat.shiftRight_zero]

theorem screenAddr_toNat :
    (screenAddr s).toNat =
      (((s.reg 5).toNat / 16) * 1024 + (if (s.reg 2).getLsbD 7 then 512 else 0) + s.vmc.toNat) % 16384 := by
  have hvmc := s.vmc.isLt
  have hwide : (s.vmc.setWidth 14).toNat = s.vmc.toNat := BitVec.toNat_setWidth_of_le (by decide)
  rw [screenAddr, BitVec.toNat_add, append_toNat, append_toNat, ofBool_toNat, hwide, screenBase_toNat, State.screenVa9]
  split <;> simp <;> omega

theorem charAddr_toNat :
    (charAddr s).toNat =
      (((s.reg 5).toNat % 16) * 1024 + s.code.toNat * (if (s.reg 3).getLsbD 0 then 16 else 8) + s.cdc.toNat) % 16384 := by
  rw [charAddr, BitVec.toNat_add, append_toNat, BitVec.toNat_ofNat, charBase_toNat, State.cellHeight, State.tall]
  simp
  omega

end

theorem vicToArray_toNat (va : ChipAddr) :
    (vicToArray va).toNat = (if va.getLsbD 13 then 0 else 32768) + va.toNat % 8192 := by
  rw [vicToArray, append_toNat, append_toNat, ofBool_toNat, BitVec.extractLsb'_toNat, Nat.shiftRight_zero]
  cases va.getLsbD 13 <;> rfl

theorem colourIndex_toNat (va : ChipAddr) : (colourIndex hw va).toNat = 0x9400 + va.toNat % 1024 := by
  have hbase : hw.colourRamBase.toNat = 0x9400 := rfl
  rw [colourIndex, BitVec.toNat_add, hbase, BitVec.toNat_setWidth, BitVec.extractLsb'_toNat, Nat.shiftRight_zero]
  omega

/-! ## The fetching TICKs -/

section
variable (cfg : Config) {s : State}

theorem tick_counters_of_screenCode (h : s.fstate = .screenCode) (hline : ¬ LineEnds s) :
    (tick cfg s).hcc = s.hcc ∧ (tick cfg s).vcc = s.vcc ∧ (tick cfg s).cdc = s.cdc ∧ (tick cfg s).vmc = s.vmc ∧
    (tick cfg s).vmcl = s.vmcl := by
  rw [tick_of_not_line_end cfg hline]
  simp [beforeLinePhase, fetchPass_screenCode cfg s.hc s.vc (s := pixelRefill s) h, screenCodeFetch]

theorem tick_counters_of_charData (h : s.fstate = .charData) (hline : ¬ LineEnds s) :
    (tick cfg s).vmc = s.vmc + 1 ∧ (tick cfg s).hcc = s.hcc - 1 ∧ (tick cfg s).vcc = s.vcc ∧ (tick cfg s).cdc = s.cdc ∧
    (tick cfg s).vmcl = s.vmcl := by
  rw [tick_of_not_line_end cfg hline]
  simp [beforeLinePhase, fetchPass_charData cfg s.hc s.vc (s := pixelRefill s) h, charDataFetch]

theorem tick_pipe_of_not_charData (h : s.fstate ≠ .charData) : (tick cfg s).pipe = (pixelRefill s).pipe := by
  rw [tick_pipe, fetchPass_pipe cfg s.hc s.vc (pixelRefill s) h]

theorem tick_latches_of_not_screenCode (h : s.fstate ≠ .screenCode) :
    (tick cfg s).code = s.code ∧ (tick cfg s).colr = s.colr := by
  rw [tick_code, tick_colr]
  exact fetchPass_latches cfg s.hc s.vc (pixelRefill s) h

end

/-- Settles O33: the two reads go to R297's address and to its colour cell. -/
theorem screenCodeFetchLatchesCodeAndColour : Obligations.ScreenCodeFetchLatchesCodeAndColour := by
  unfold Obligations.ScreenCodeFetchLatchesCodeAndColour
  intro s hs va hva i c hi hc
  obtain rfl : va = screenAddr s := BitVec.eq_of_toNat_eq (hva.trans (screenAddr_toNat s).symm)
  obtain rfl : i = vicToArray (screenAddr s) := BitVec.eq_of_toNat_eq (hi.trans (vicToArray_toNat _).symm)
  obtain rfl : c = colourIndex hw (screenAddr s) := BitVec.eq_of_toNat_eq (hc.trans (colourIndex_toNat _).symm)
  exact ⟨(tick hw s).answer .ok, rfl, tick_code_of_screenCode hw hs, tick_colr_of_screenCode hw hs,
    tick_pipe_of_not_charData hw (by simp [hs]), tick_counters_of_screenCode hw hs⟩

/-- Settles O34: the read goes to R299's address, and its byte is decoded into the pipeline. -/
theorem charDataFetchLoadsThePipeline : Obligations.CharDataFetchLoadsThePipeline := by
  unfold Obligations.CharDataFetchLoadsThePipeline
  intro s hs va hva i hi
  obtain rfl : va = charAddr s := BitVec.eq_of_toNat_eq (hva.trans (charAddr_toNat s).symm)
  obtain rfl : i = vicToArray (charAddr s) := BitVec.eq_of_toNat_eq (hi.trans (vicToArray_toNat _).symm)
  obtain ⟨hcode, hcolr⟩ := tick_latches_of_not_screenCode hw (s := s) (by simp [hs])
  exact ⟨(tick hw s).answer .ok, rfl, tick_pipe_of_charData hw hs, hcode, hcolr, tick_counters_of_charData hw hs⟩

end Sys2Proof.Machine
end

section
/-! PROOFS. Runs of TICKs: what two runs share whose banks and positions agree (42_fetch_fsm.md R290, R302), and the lines and frames
that a run goes through (41_cycle_tick.md R255, R259, R260, R265). -/

namespace Sys2Proof.Machine

/-! ## States that agree on the mode and on what the core reads of the bank besides the raster fields -/

/-- The mode and the bank agree, but for the raster fields R4 and R3[7], which a TICK writes and no pass reads (R258). -/
structure SameBank (s t : State) : Prop where
  mode : s.mode = t.mode
  other : ∀ n : RegIx, n ≠ 3 → n ≠ 4 → s.reg n = t.reg n
  three : (s.reg 3).extractLsb' 0 7 = (t.reg 3).extractLsb' 0 7

namespace SameBank

theorem symm {s t : State} (h : SameBank s t) : SameBank t s :=
  ⟨h.mode.symm, fun n h3 h4 => (h.other n h3 h4).symm, h.three.symm⟩

theorem trans {s t u : State} (h : SameBank s t) (h' : SameBank t u) : SameBank s u :=
  ⟨h.mode.trans h'.mode, fun n h3 h4 => (h.other n h3 h4).trans (h'.other n h3 h4), h.three.trans h'.three⟩

theorem tick_self (cfg : Config) (s : State) : SameBank (tick cfg s) s :=
  ⟨tick_mode cfg s, tick_reg_other cfg s, tick_reg_three_low cfg s⟩

theorem ticks_self (cfg : Config) (n : Nat) (s : State) : SameBank (ticks cfg n s) s := by
  induction n with
  | zero => exact ⟨rfl, fun _ _ _ => rfl, rfl⟩
  | succ n ih =>
    rw [ticks_succ]
    exact (tick_self cfg _).trans ih

section
variable {s t : State} (h : SameBank s t)
include h

theorem tick (cfg : Config) : SameBank (Machine.tick cfg s) (Machine.tick cfg t) :=
  (tick_self cfg s).trans (h.trans (tick_self cfg t).symm)

theorem standard : s.standard = t.standard := State.standard_congr h.mode

theorem frameLength : s.frameLength = t.frameLength := State.frameLength_congr h.mode (h.other 0 (by decide) (by decide))

theorem cellHeight : s.cellHeight = t.cellHeight := State.cellHeight_congr h.three

theorem originX : s.originX = t.originX := by simp only [State.originX, h.other 0 (by decide) (by decide)]

theorem originY : s.originY = t.originY := h.other 1 (by decide) (by decide)

theorem columns : s.columns = t.columns := by simp only [State.columns, h.other 2 (by decide) (by decide)]

theorem rows : s.rows = t.rows := by
  have hlow : ∀ u : State, u.rows = ((u.reg 3).extractLsb' 0 7).extractLsb' 1 6 := fun u => by ext i hi; simp [State.rows]
  rw [hlow, hlow, h.three]

end

end SameBank

/-! ## States at the same position -/

/-- The banks agree, and the raster is at the same cycle of the same line. -/
structure SamePosition (s t : State) : Prop extends SameBank s t where
  hc : s.hc = t.hc
  vc : s.vc = t.vc

namespace SamePosition

variable {s t : State} (h : SamePosition s t)
include h

theorem tick (cfg : Config) : SamePosition (Machine.tick cfg s) (Machine.tick cfg t) where
  toSameBank := h.toSameBank.tick cfg
  hc := by rw [tick_hc, tick_hc, h.hc, h.standard]
  vc := by rw [tick_vc_eq, tick_vc_eq, h.hc, h.vc, h.standard, h.frameLength]

theorem frameStarts_iff (cfg : Config) : FrameStarts cfg s ↔ FrameStarts cfg t := by
  rw [FrameStarts, FrameStarts, h.hc, h.vc, h.standard, h.frameLength]

theorem lineEnds_iff : LineEnds s ↔ LineEnds t := by
  rw [LineEnds, LineEnds, h.hc, h.standard]

end SamePosition

/-! ## States whose fetch machines are alike -/

/-- A fetch state without regard to whether cells of the line are left: HCC parts MATRIX_LINE from the two fetches (R296, R300). -/
def FetchState.stage : FetchState → FetchState
  | .screenCode => .matrixLine
  | .charData => .matrixLine
  | f => f

theorem FetchState.stage_fetchOrRest (hcc : BitVec 7) : (fetchOrRest hcc).stage = .matrixLine := by
  unfold fetchOrRest
  split <;> rfl

theorem FetchState.xMatched_stage (f : FetchState) : xMatched f.stage = xMatched f := by
  cases f <;> rfl

theorem FetchState.stage_eq_outsideMatrix_iff {f : FetchState} : f.stage = .outsideMatrix ↔ f = .outsideMatrix := by
  cases f <;> decide

theorem FetchState.stage_of_not_xMatched {f : FetchState} (h : xMatched f = false) : f.stage = f := by
  cases f with
  | outsideMatrix | inMatrixY | inMatrixX => rfl
  | matrixLine | matrixDly1 | matrixDly2 | matrixDly3 | screenCode | charData => cases h

/-- The stages in which X has not matched are one fetch state each. -/
theorem FetchState.eq_of_stage_eq {f g : FetchState} (h : f.stage = g.stage) (hf : xMatched f = false) : f = g := by
  have hg : xMatched g = false := by rw [← xMatched_stage, ← h, xMatched_stage, hf]
  rw [← stage_of_not_xMatched hf, h, stage_of_not_xMatched hg]

/-- The stage that the fetch pass moves to (R302). -/
def nextStage (xMatches yMatches : Prop) [Decidable xMatches] [Decidable yMatches] : FetchState → FetchState
  | .outsideMatrix => if yMatches then .inMatrixY else .outsideMatrix
  | .inMatrixY => if xMatches then .matrixDly1 else .inMatrixY
  | .inMatrixX => if xMatches then .matrixDly1 else .inMatrixX
  | .matrixDly1 => .matrixDly2
  | .matrixDly2 => .matrixDly3
  | _ => .matrixLine

theorem stage_nextFetch (hc0 : BitVec 7) (vc0 : BitVec 9) (s : State) :
    (nextFetch hc0 vc0 s).stage = nextStage (hc0 = s.originX) (vc0.toNat / 2 = s.originY.toNat) s.fstate.stage := by
  cases hs : s.fstate with
  | outsideMatrix | inMatrixY | inMatrixX =>
    simp only [nextFetch, hs]
    split <;> simp only [FetchState.stage, nextStage, *, if_true, if_false]
  | matrixDly3 | charData =>
    simp only [nextFetch, hs, FetchState.stage_fetchOrRest]
    rfl
  | matrixDly1 | matrixDly2 | screenCode | matrixLine =>
    simp only [nextFetch, hs]
    rfl

/-- The positions agree, the fetch states agree but for the cells left on the line, and so do the row counters within the matrix;
outside it they are of no account, since the Y match writes both (R292). -/
structure FetchAlike (s t : State) : Prop extends SamePosition s t where
  stage : s.fstate.stage = t.fstate.stage
  row : s.fstate ≠ .outsideMatrix → s.cdc = t.cdc ∧ s.vcc = t.vcc

/-- The fetch states agree, the cells left on the line included. -/
structure FetchEqual (s t : State) : Prop extends FetchAlike s t where
  fstate : s.fstate = t.fstate
  hcc : s.hcc = t.hcc

namespace FetchAlike

section
variable {s t : State} (h : FetchAlike s t)
include h

/-- The stage that the fetch pass moves to depends on the position, the origin and the stage alone. -/
theorem nextFetch_stage : (nextFetch s.hc s.vc s).stage = (nextFetch t.hc t.vc t).stage := by
  simp only [stage_nextFetch, h.hc, h.vc, h.originX, h.originY, h.stage]

theorem xMatched_nextFetch : xMatched (nextFetch s.hc s.vc s) = xMatched (nextFetch t.hc t.vc t) := by
  rw [← FetchState.xMatched_stage, h.nextFetch_stage, FetchState.xMatched_stage]

theorem outsideMatrix_iff : s.fstate = .outsideMatrix ↔ t.fstate = .outsideMatrix := by
  rw [← FetchState.stage_eq_outsideMatrix_iff, h.stage, FetchState.stage_eq_outsideMatrix_iff]

theorem yMatches_iff : YMatches s.vc s ↔ YMatches t.vc t := by
  rw [YMatches, YMatches, h.outsideMatrix_iff, h.vc, h.originY]

theorem rowAdvances_iff (cfg : Config) : RowAdvances cfg s ↔ RowAdvances cfg t := by
  rw [RowAdvances, RowAdvances, h.lineEnds_iff, h.frameStarts_iff, h.xMatched_nextFetch]

/-- The fetch states after a TICK are the same, or they are what the fetch pass moved to. -/
theorem tick_fstate_eq_or (cfg : Config) :
    (Machine.tick cfg s).fstate = (Machine.tick cfg t).fstate ∨
    ¬ (LineEnds s ∧ xMatched (nextFetch s.hc s.vc s) = true) ∧
      (Machine.tick cfg s).fstate = nextFetch s.hc s.vc s ∧ (Machine.tick cfg t).fstate = nextFetch t.hc t.vc t := by
  have hline : (LineEnds s ∧ xMatched (nextFetch s.hc s.vc s) = true) ↔ (LineEnds t ∧ xMatched (nextFetch t.hc t.vc t) = true) :=
    and_congr h.lineEnds_iff (by rw [h.xMatched_nextFetch])
  rw [tick_fstate, tick_fstate]
  by_cases hframe : FrameStarts cfg s
  · exact .inl (by rw [if_pos hframe, if_pos ((h.frameStarts_iff cfg).1 hframe)])
  rw [if_neg hframe, if_neg fun ht => hframe ((h.frameStarts_iff cfg).2 ht)]
  by_cases hrow : LineEnds s ∧ xMatched (nextFetch s.hc s.vc s) = true
  · have houtside : s.fstate ≠ .outsideMatrix := fun hs => by simpa [hs] using (xMatched_nextFetch_iff s.vc).1 hrow.2
    obtain ⟨hcdc, hvcc⟩ := h.row houtside
    exact .inl (by rw [if_pos hrow, if_pos (hline.1 hrow), hcdc, hvcc, h.cellHeight])
  · exact .inr ⟨hrow, if_neg hrow, if_neg fun ht => hrow (hline.2 ht)⟩

theorem tick_row (cfg : Config) (houtside : (Machine.tick cfg s).fstate ≠ .outsideMatrix) :
    (Machine.tick cfg s).cdc = (Machine.tick cfg t).cdc ∧ (Machine.tick cfg s).vcc = (Machine.tick cfg t).vcc := by
  rw [tick_cdc, tick_cdc, tick_vcc, tick_vcc]
  simp only [← h.rowAdvances_iff cfg, ← h.yMatches_iff, h.cellHeight, h.rows]
  by_cases hs : s.fstate = .outsideMatrix
  · have hrow : ¬ RowAdvances cfg s := fun hrow => by simpa [hs] using (xMatched_nextFetch_iff s.vc).1 hrow.2.2
    have hy : YMatches s.vc s := by_contra fun hy => houtside (tick_fstate_of_outsideMatrix cfg hs hy)
    simp only [if_neg hrow, if_pos hy, and_self]
  · obtain ⟨hcdc, hvcc⟩ := h.row hs
    simp only [hcdc, hvcc, and_self]

/-- A TICK keeps fetch machines alike. -/
theorem tick (cfg : Config) : FetchAlike (Machine.tick cfg s) (Machine.tick cfg t) where
  toSamePosition := h.toSamePosition.tick cfg
  stage := by
    obtain heq | ⟨-, hs, ht⟩ := h.tick_fstate_eq_or cfg
    · rw [heq]
    · rw [hs, ht, h.nextFetch_stage]
  row := h.tick_row cfg

/-- The new line reloads HCC, and the row accounting leaves no trace of the cells that were left (R262, R263). -/
theorem tick_of_lineEnds (cfg : Config) (hline : LineEnds s) : FetchEqual (Machine.tick cfg s) (Machine.tick cfg t) where
  toFetchAlike := h.tick cfg
  fstate := by
    obtain heq | ⟨hrow, hs, ht⟩ := h.tick_fstate_eq_or cfg
    · exact heq
    · rw [hs, ht]
      exact FetchState.eq_of_stage_eq h.nextFetch_stage (Bool.eq_false_iff.2 fun hm => hrow ⟨hline, hm⟩)
  hcc := by rw [tick_hcc, tick_hcc, if_pos hline, if_pos (h.lineEnds_iff.1 hline), h.columns]

end

theorem ticks {s t : State} (h : FetchAlike s t) (cfg : Config) (n : Nat) :
    FetchAlike (Machine.ticks cfg n s) (Machine.ticks cfg n t) := by
  induction n with
  | zero => exact h
  | succ n ih =>
    rw [ticks_succ, ticks_succ]
    exact ih.tick cfg

end FetchAlike

namespace FetchEqual

variable {s t : State} (h : FetchEqual s t)
include h

theorem tick (cfg : Config) : FetchEqual (Machine.tick cfg s) (Machine.tick cfg t) where
  toFetchAlike := h.toFetchAlike.tick cfg
  fstate := by
    obtain heq | ⟨-, hs, ht⟩ := h.tick_fstate_eq_or cfg
    · exact heq
    · rw [hs, ht]
      simp only [nextFetch, h.fstate, h.hcc, h.hc, h.vc, h.originX, h.originY]
  hcc := by
    rw [tick_hcc, tick_hcc, h.fstate, h.hcc, h.columns]
    simp only [h.lineEnds_iff]

theorem ticks (cfg : Config) (n : Nat) : FetchEqual (Machine.ticks cfg n s) (Machine.ticks cfg n t) := by
  induction n with
  | zero => exact h
  | succ n ih =>
    rw [ticks_succ, ticks_succ]
    exact ih.tick cfg

end FetchEqual

/-- Settles O37: the agreeing fields make the fetch machines equal, and a TICK keeps them so. -/
theorem fetchSequenceDependsOnPositionAndRegistersOnly : Obligations.FetchSequenceDependsOnPositionAndRegistersOnly := by
  unfold Obligations.FetchSequenceDependsOnPositionAndRegistersOnly
  intro cfg n s t hmode hregs hhc hvc hfstate hhcc hvcc hcdc
  have hreg : ∀ i, s.reg i = t.reg i := State.reg_congr hregs
  have hequal : FetchEqual s t :=
    { mode := hmode, other := fun i _ _ => hreg i, three := by rw [hreg], hc := hhc, vc := hvc, stage := by rw [hfstate],
      row := fun _ => ⟨hcdc, hvcc⟩, fstate := hfstate, hcc := hhcc }
  have hticks := hequal.ticks cfg n
  exact ⟨hticks.fstate, hticks.hc, hticks.vc⟩

end Sys2Proof.Machine
end

section
/-! PROOFS. Lines and frames as runs of TICKs (41_cycle_tick.md R255, R259, R260, R265, R266), and the timing of a line's first
character (42_fetch_fsm.md R304). -/

namespace Sys2Proof.Machine

/-! ## A line (R259, R260) -/

theorem lineCycles_cases (S : Standard) : lineCycles S = 71 ∨ lineCycles S = 65 := by
  cases S <;> decide

/-- The line after the state's (R260). -/
def State.nextVc (s : State) : BitVec 9 := if s.frameLength ≤ s.vc.toNat + 1 then 0 else s.vc + 1

/-- From cycle `h` of a line of `L` cycles the cycle `V` is `(V - h) mod L` cycles away. -/
theorem cycle_due_iff {L V h n : Nat} (hL : L = 71 ∨ L = 65) (hV : V < L) (hh : h < L) (hn : n < L) :
    (h + n) % L = V ↔ (V + L - h) % L = n := by
  rcases hL with rfl | rfl <;> omega

section
variable {cfg : Config} {s : State}

theorem ticks_frameLength (n : Nat) : (ticks cfg n s).frameLength = s.frameLength :=
  (SameBank.ticks_self cfg n s).frameLength

theorem tick_hc_toNat (h : s.hc.toNat < lineCycles s.standard) :
    (tick cfg s).hc.toNat = (s.hc.toNat + 1) % lineCycles s.standard := by
  have hcycles := lineCycles_le s.standard
  rw [tick_hc]
  split
  · next hline => rw [hline, Nat.mod_self]; rfl
  · rw [hc_succ_toNat (by omega), Nat.mod_eq_of_lt (by omega)]

theorem ticks_hc_toNat (h : s.hc.toNat < lineCycles s.standard) (n : Nat) :
    (ticks cfg n s).hc.toNat = (s.hc.toNat + n) % lineCycles s.standard := by
  induction n with
  | zero => rw [Nat.add_zero, Nat.mod_eq_of_lt h]; rfl
  | succ n ih =>
    have hlt : (ticks cfg n s).hc.toNat < lineCycles (ticks cfg n s).standard := by
      rw [ih, ticks_standard]
      exact Nat.mod_lt _ (lineCycles_le _).1
    rw [ticks_succ, tick_hc_toNat hlt, ih, ticks_standard, Nat.mod_add_mod, Nat.add_assoc]

/-- In a line's worth of TICKs vc moves once, in the TICK at HC_VC_INC. -/
theorem ticks_vc (hinc : cfg.hcVcInc s.standard < lineCycles s.standard) (h : s.hc.toNat < lineCycles s.standard) {n : Nat}
    (hn : n ≤ lineCycles s.standard) :
    (ticks cfg n s).vc =
      if (cfg.hcVcInc s.standard + lineCycles s.standard - s.hc.toNat) % lineCycles s.standard < n then s.nextVc else s.vc := by
  induction n with
  | zero => rfl
  | succ n ih =>
    rw [ticks_succ, tick_vc_eq, ih (by omega), ticks_standard, ticks_frameLength, ticks_hc_toNat h]
    have hdue := cycle_due_iff (lineCycles_cases s.standard) hinc h (n := n) (by omega)
    by_cases hnow : (cfg.hcVcInc s.standard + lineCycles s.standard - s.hc.toNat) % lineCycles s.standard = n
    · rw [if_pos (hdue.2 hnow), hnow, if_neg (Nat.lt_irrefl n), if_pos (Nat.lt_succ_self n)]
      rfl
    · rw [if_neg fun h => hnow (hdue.1 h)]
      simp only [show ∀ d, d ≠ n → (d < n + 1 ↔ d < n) by omega, hnow, ne_eq, not_false_iff]

/-- After a line's worth of TICKs the raster is at the same cycle of the next line. -/
theorem ticks_line (hinc : cfg.hcVcInc s.standard < lineCycles s.standard) (h : s.hc.toNat < lineCycles s.standard) :
    (ticks cfg (lineCycles s.standard) s).hc = s.hc ∧ (ticks cfg (lineCycles s.standard) s).vc = s.nextVc := by
  constructor
  · apply BitVec.eq_of_toNat_eq
    rw [ticks_hc_toNat h, Nat.add_mod_right, Nat.mod_eq_of_lt h]
  · rw [ticks_vc hinc h (Nat.le_refl _), if_pos (Nat.mod_lt _ (lineCycles_le _).1)]

theorem State.nextVc_toNat {k : Nat} (h : s.vc.toNat = k % s.frameLength) : s.nextVc.toNat = (k + 1) % s.frameLength := by
  have hrange := frameLength_range s
  have hlongest : maxFrameLines s.standard ≤ 312 := by cases s.standard <;> decide
  have hvc : s.vc.toNat < s.frameLength := h ▸ Nat.mod_lt _ hrange.1
  rw [← Nat.mod_add_mod, ← h, State.nextVc]
  split
  · rw [show s.vc.toNat + 1 = s.frameLength by omega, Nat.mod_self]
    rfl
  · rw [vc_succ_toNat (by omega), Nat.mod_eq_of_lt (by omega)]

/-- From a first line the lines of a frame go by one after the other, and the frames too (R265). -/
theorem ticks_lines (hinc : cfg.hcVcInc s.standard < lineCycles s.standard) (h : s.hc.toNat < lineCycles s.standard)
    (hvc : s.vc = 0) (k : Nat) :
    (ticks cfg (lineCycles s.standard * k) s).hc = s.hc ∧
    (ticks cfg (lineCycles s.standard * k) s).vc.toNat = k % s.frameLength := by
  induction k with
  | zero => exact ⟨rfl, by rw [Nat.zero_mod]; exact congrArg BitVec.toNat hvc⟩
  | succ k ih =>
    have hstandard := ticks_standard cfg (lineCycles s.standard * k) s
    have hlines := ticks_frameLength (cfg := cfg) (s := s) (lineCycles s.standard * k)
    obtain ⟨hhc, hvc⟩ := ih
    rw [Nat.mul_succ, Nat.add_comm, ticks_add]
    generalize ticks cfg (lineCycles s.standard * k) s = u at *
    have hline := ticks_line (cfg := cfg) (s := u) (by rwa [hstandard]) (by rwa [hstandard, hhc])
    rw [hstandard] at hline
    exact ⟨hline.1.trans hhc, by rw [hline.2, State.nextVc_toNat (hlines ▸ hvc), hlines]⟩

end

/-- Settles O39: the horizontal counter of R259 counts the cycles, and vc moves once in a line. -/
theorem lineTakesItsCycles : Obligations.LineTakesItsCycles := by
  unfold Obligations.LineTakesItsCycles
  intro cfg s hcfg hhc
  have h : s.hc.toNat < lineCycles s.standard := by rw [hhc]; exact (lineCycles_le _).1
  obtain ⟨hline, hvc⟩ := ticks_line (hcfg.hcVcInc_lt s.standard) h
  refine ⟨fun n hn => ?_, hline.trans hhc, hvc⟩
  rw [ticks_hc_toNat h, hhc]
  exact (congrArg (· % lineCycles s.standard) (Nat.zero_add n)).trans (Nat.mod_eq_of_lt hn)

/-! ## A frame (R265) -/

/-- A run of TICK words goes through the positions of that many TICKs. -/
theorem run_tickWords {k : Nat} {s u : State} (hstim : s.stim = List.replicate k 0x00000000) (h : SamePosition s u) :
    ∃ t, Host.Core.run Sys2Proof.core k s = .next t ∧ SamePosition t (ticks hw k u) := by
  induction k generalizing s u with
  | zero => exact ⟨s, rfl, h⟩
  | succ k ih =>
    have hwaiting : SamePosition { s with stim := List.replicate k 0x00000000 } u :=
      { mode := h.mode, other := h.other, three := h.three, hc := h.hc, vc := h.vc }
    have htick := hwaiting.tick hw
    have hstep : step s = .next ((tick hw { s with stim := List.replicate k 0x00000000 }).answer .ok) :=
      step_of_instr hstim (decode_encode .tick)
    obtain ⟨t, hrun, hpos⟩ := ih (s := (tick hw { s with stim := List.replicate k 0x00000000 }).answer .ok) (tick_stim hw _)
      { mode := htick.mode, other := htick.other, three := htick.three, hc := htick.hc, vc := htick.vc }
    refine ⟨t, ?_, hpos⟩
    show Host.Core.run Sys2Proof.core (k + 1) s = _
    simp only [Host.Core.run, show Sys2Proof.core.step s = _ from hstep, hrun]

theorem run_lines {n : Nat} {s : State} (hhc : s.hc = 0) (hvc : s.vc = 0)
    (hstim : s.stim = List.replicate (lineCycles s.standard * n) 0x00000000) :
    ∃ t, Host.Core.run Sys2Proof.core (lineCycles s.standard * n) s = .next t ∧ t.hc = 0 ∧
      t.vc.toNat = n % s.frameLength := by
  have h : s.hc.toNat < lineCycles s.standard := by rw [hhc]; exact (lineCycles_le _).1
  obtain ⟨t, hrun, hpos⟩ := run_tickWords hstim
    { mode := rfl, other := fun _ _ _ => rfl, three := rfl, hc := rfl, vc := rfl : SamePosition s s }
  obtain ⟨hline, hvc⟩ := ticks_lines (hw_wellFormed.hcVcInc_lt s.standard) h hvc n
  exact ⟨t, hrun, by rw [hpos.hc, hline, hhc], by rw [hpos.vc, hvc]⟩

/-- Settles O40: the words run the TICKs of n lines, of LINE_CYCLES each, and the lines count modulo FRAME_LINES. -/
theorem frameTakesItsTicks : Obligations.FrameTakesItsTicks := by
  unfold Obligations.FrameTakesItsTicks
  intro s n hhc hvc _
  have hrun := run_lines (n := n) hhc hvc
  rw [State.frameLength, State.interlace] at hrun
  revert hrun
  cases s.standard with
  | pal => exact id
  | ntsc => cases (s.reg 0).getLsbD 7 <;> exact id

/-! ## The frame repeats (R266) -/

section
variable {cfg : Config} {s : State} (hinc : cfg.hcVcInc s.standard < lineCycles s.standard)
  (hhc : s.hc.toNat = (cfg.hcVcInc s.standard + 1) % lineCycles s.standard)
include hinc hhc

omit hinc in
theorem hc_lt_of_after_hcVcInc : s.hc.toNat < lineCycles s.standard := by
  rw [hhc]
  exact Nat.mod_lt _ (lineCycles_le _).1

/-- From the cycle after HC_VC_INC the next HC_VC_INC is a line's worth of TICKs less one away, in the same line. -/
theorem ticks_to_hcVcInc :
    (ticks cfg (lineCycles s.standard - 1) s).hc.toNat = cfg.hcVcInc s.standard ∧
    (ticks cfg (lineCycles s.standard - 1) s).vc = s.vc := by
  have hcycles := (lineCycles_le s.standard).1
  have h := hc_lt_of_after_hcVcInc hhc
  have hcycle : (s.hc.toNat + (lineCycles s.standard - 1)) % lineCycles s.standard = cfg.hcVcInc s.standard := by
    rw [hhc, Nat.mod_add_mod, show ∀ L V, 0 < L → V + 1 + (L - 1) = V + L by omega, Nat.add_mod_right, Nat.mod_eq_of_lt hinc]
    exact hcycles
  have hdue := (cycle_due_iff (lineCycles_cases s.standard) hinc h (by omega)).1 hcycle
  exact ⟨(ticks_hc_toNat h _).trans hcycle, by rw [ticks_vc hinc h (by omega), hdue, if_neg (Nat.lt_irrefl _)]⟩

/-- A frame begins in the cycle after HC_VC_INC, and its last TICK starts the next one. -/
theorem frameStarts_at_period_end (hvc : s.vc = 0) {m : Nat} (hm : m + 1 = lineCycles s.standard * s.frameLength) :
    FrameStarts cfg (ticks cfg m s) := by
  obtain ⟨k, hk⟩ : ∃ k, s.frameLength = k + 1 := Nat.exists_eq_add_one.2 (frameLength_range s).1
  have hcycles := (lineCycles_le s.standard).1
  have hsplit : m = (lineCycles s.standard - 1) + lineCycles s.standard * k := by
    rw [hk, Nat.mul_succ] at hm
    omega
  obtain ⟨hline, hlast⟩ := ticks_lines hinc (hc_lt_of_after_hcVcInc hhc) hvc k
  have hstandard := ticks_standard cfg (lineCycles s.standard * k) s
  have hlines := ticks_frameLength (cfg := cfg) (s := s) (lineCycles s.standard * k)
  rw [hsplit, ticks_add]
  generalize ticks cfg (lineCycles s.standard * k) s = u at *
  obtain ⟨hinc_now, hvc_now⟩ := ticks_to_hcVcInc (cfg := cfg) (s := u) (by rwa [hstandard]) (by rw [hstandard, hline, hhc])
  rw [hstandard] at hinc_now hvc_now
  refine ⟨?_, ?_⟩
  · rw [ticks_standard, hstandard, hinc_now]
  · rw [ticks_frameLength, hlines, hvc_now, hlast, hk, Nat.mod_eq_of_lt (Nat.lt_succ_self k)]

end

/-- Past the end of the line alike fetch machines are equal (R262). -/
theorem FetchAlike.ticks_past_line_end {s t : State} (h : FetchAlike s t) (cfg : Config) {n : Nat}
    (hhc : s.hc.toNat < lineCycles s.standard) (hn : lineCycles s.standard ≤ s.hc.toNat + n) :
    FetchEqual (Machine.ticks cfg n s) (Machine.ticks cfg n t) := by
  obtain ⟨j, i, hj, rfl⟩ : ∃ j i, s.hc.toNat + j + 1 = lineCycles s.standard ∧ n = i + (j + 1) :=
    ⟨lineCycles s.standard - 1 - s.hc.toNat, s.hc.toNat + n - lineCycles s.standard, by omega, by omega⟩
  have hline : LineEnds (Machine.ticks cfg j s) := by
    rw [LineEnds, ticks_hc_toNat hhc, ticks_standard, Nat.mod_eq_of_lt (by omega), hj]
  rw [ticks_add cfg i, ticks_add cfg i, ticks_succ cfg j, ticks_succ cfg j]
  exact ((h.ticks cfg j).tick_of_lineEnds cfg hline).ticks cfg i

/-- Settles O38: a frame's last TICK leaves the fetch machine outside the matrix, where the row counters are of no account; HCC is
of none past the end of the line. -/
theorem fetchSequenceRepeatsEveryFrame : Obligations.FetchSequenceRepeatsEveryFrame := by
  unfold Obligations.FetchSequenceRepeatsEveryFrame
  intro cfg s period hinc hhc hvc hs hperiod
  have hlt : s.hc.toNat < lineCycles s.standard := hc_lt_of_after_hcVcInc hhc
  have hbank := SameBank.ticks_self cfg period s
  have hpos : 0 < period := hperiod ▸ Nat.mul_pos (lineCycles_le _).1 (frameLength_range s).1
  obtain ⟨m, rfl⟩ : ∃ m, period = m + 1 := Nat.exists_eq_add_one.2 hpos
  have hframe := frameStarts_at_period_end hinc hhc hvc hperiod
  obtain ⟨hhc_end, hvc_end⟩ := ticks_lines hinc hlt hvc s.frameLength
  rw [← hperiod, Nat.mod_self] at hvc_end
  rw [← hperiod] at hhc_end
  have hvc_end : (ticks cfg (m + 1) s).vc = s.vc := (BitVec.eq_of_toNat_eq hvc_end).trans hvc.symm
  have hfstate_end : (ticks cfg (m + 1) s).fstate = s.fstate := by
    rw [ticks_succ, tick_fstate, if_pos hframe, hs]
  refine ⟨⟨hhc_end, hvc_end, hfstate_end, fun hend => ?_⟩, fun n hn => ?_⟩
  · have hline : LineEnds (ticks cfg m s) := by
      rw [LineEnds, hframe.1, ticks_standard]
      exact hend
    rw [ticks_succ, tick_hcc, if_pos hline, (SameBank.ticks_self cfg m s).columns]
  · have halike : FetchAlike s (ticks cfg (m + 1) s) :=
      { toSameBank := hbank.symm, hc := hhc_end.symm, vc := hvc_end.symm, stage := by rw [hfstate_end],
        row := fun h => absurd hs h }
    have hequal : FetchEqual (ticks cfg n s) (ticks cfg n (ticks cfg (m + 1) s)) := by
      rcases hn with hpast | hcc
      · exact halike.ticks_past_line_end cfg hlt hpast
      · exact FetchEqual.ticks ⟨halike, hfstate_end.symm, hcc.symm⟩ cfg n
    rw [ticks_add]
    exact ⟨hequal.hc.symm, hequal.vc.symm, hequal.fstate.symm, hequal.hcc.symm⟩

/-! ## The first character of a line (R304) -/

/-- Before its end no frame starts on a line that is not the frame's last: vc moves once on it at most. -/
theorem ticks_on_line {cfg : Config} {s : State} (hvc : s.vc.toNat + 1 < s.frameLength) {n : Nat}
    (hn : s.hc.toNat + n < lineCycles s.standard) :
    (ticks cfg n s).hc.toNat = s.hc.toNat + n ∧ ¬ FrameStarts cfg (ticks cfg n s) := by
  have hhc : ∀ k, k ≤ n → (ticks cfg k s).hc.toNat = s.hc.toNat + k := fun k hk => by
    rw [ticks_hc_toNat (by omega), Nat.mod_eq_of_lt (by omega)]
  have hstill : ∀ k, k ≤ n → (ticks cfg k s).vc = s.vc ∨ cfg.hcVcInc s.standard < s.hc.toNat + k := fun k hk => by
    induction k with
    | zero => exact .inl rfl
    | succ k ih =>
      rw [ticks_succ, tick_vc_eq, hhc k (by omega), ticks_standard]
      split
      · exact .inr (by omega)
      · exact (ih (by omega)).imp_right (by omega)
  refine ⟨hhc n (Nat.le_refl n), fun ⟨hinc, hlast⟩ => ?_⟩
  rw [ticks_frameLength] at hlast
  rw [ticks_standard, hhc n (Nat.le_refl n)] at hinc
  rcases hstill n (Nat.le_refl n) with heq | hpast
  · rw [heq] at hlast
    omega
  · omega

/-- On such a line a TICK before the last cycle moves the fetch state and counts the cells as the fetch pass does. -/
theorem ticks_succ_on_line {cfg : Config} {s : State} (hvc : s.vc.toNat + 1 < s.frameLength) {n : Nat}
    (hn : s.hc.toNat + n + 1 < lineCycles s.standard) :
    (ticks cfg (n + 1) s).fstate = nextFetch (ticks cfg n s).hc (ticks cfg n s).vc (ticks cfg n s) ∧
    (ticks cfg (n + 1) s).hcc =
      if (ticks cfg n s).fstate = .charData then (ticks cfg n s).hcc - 1 else (ticks cfg n s).hcc := by
  obtain ⟨hhc, hframe⟩ := ticks_on_line (cfg := cfg) hvc (n := n) (by omega)
  have hinside : ¬ LineEnds (ticks cfg n s) := by
    rw [LineEnds, hhc, ticks_standard]
    omega
  rw [ticks_succ, tick_fstate, if_neg hframe, if_neg fun h => hinside h.1, tick_hcc, if_neg hinside]
  exact ⟨rfl, rfl⟩

/-- Settles O41: the six TICKs lie on the line and start no frame, so that each does what its fetch state says. -/
theorem firstCharacterFollowsTheXMatchBySixCycles : Obligations.FirstCharacterFollowsTheXMatchBySixCycles := by
  unfold Obligations.FirstCharacterFollowsTheXMatchBySixCycles
  intro cfg s hs hx hcc hline hvc
  obtain ⟨f1, c1⟩ := ticks_succ_on_line (cfg := cfg) hvc (n := 0) (by omega)
  obtain ⟨f2, c2⟩ := ticks_succ_on_line (cfg := cfg) hvc (n := 1) (by omega)
  obtain ⟨f3, c3⟩ := ticks_succ_on_line (cfg := cfg) hvc (n := 2) (by omega)
  obtain ⟨f4, c4⟩ := ticks_succ_on_line (cfg := cfg) hvc (n := 3) (by omega)
  obtain ⟨f5, c5⟩ := ticks_succ_on_line (cfg := cfg) hvc (n := 4) (by omega)
  obtain ⟨-, c6⟩ := ticks_succ_on_line (cfg := cfg) hvc (n := 5) (by omega)
  have hdly1 : nextFetch s.hc s.vc s = .matrixDly1 := by
    rcases hs with hs | hs <;> simp only [nextFetch, hs, hx, if_true]
  have hstart : s.fstate ≠ .charData := by
    rcases hs with hs | hs <;> simp [hs]
  have s1 : (ticks cfg 1 s).fstate = .matrixDly1 := f1.trans hdly1
  have s2 : (ticks cfg 2 s).fstate = .matrixDly2 := f2.trans (by simp only [nextFetch, s1])
  have s3 : (ticks cfg 3 s).fstate = .matrixDly3 := f3.trans (by simp only [nextFetch, s2])
  have hcc1 : (ticks cfg 1 s).hcc = s.hcc := c1.trans (if_neg hstart)
  have hcc2 : (ticks cfg 2 s).hcc = s.hcc := (c2.trans (if_neg (by simp [s1]))).trans hcc1
  have hcc3 : (ticks cfg 3 s).hcc = s.hcc := (c3.trans (if_neg (by simp [s2]))).trans hcc2
  have s4 : (ticks cfg 4 s).fstate = .screenCode := f4.trans (by simp only [nextFetch, s3, fetchOrRest, hcc3, hcc, if_false])
  have s5 : (ticks cfg 5 s).fstate = .charData := f5.trans (by simp only [nextFetch, s4])
  have hcc4 : (ticks cfg 4 s).hcc = s.hcc := (c4.trans (if_neg (by simp [s3]))).trans hcc3
  have hcc5 : (ticks cfg 5 s).hcc = s.hcc := (c5.trans (if_neg (by simp [s4]))).trans hcc4
  have hpipe := tick_pipe_of_charData cfg s5
  rw [← ticks_succ] at hpipe
  exact ⟨s1, s2, s3, s4, s5, hpipe, by rw [c6, if_pos s5, hcc5]⟩

end Sys2Proof.Machine
end

section
/-! PROOFS. The character decode and the pipeline (43_pixel_pipeline.md), and the test modes, which change the outputs only
(41_cycle_tick.md R267). -/

namespace Sys2Proof.Machine

/-! ## The decode (R333 to R335) -/

theorem hiRes_getElem (bg fg : Colour) (rev : Bool) (b : Byte) (j : Fin 8) :
    (hiRes bg fg rev b)[j] = hiResPixel bg fg rev b (7 - j.val) := by
  fin_cases j <;> rfl

/-- Inverting the byte is the same as asking for its bit to equal the complement of the reverse mode (R334). -/
theorem hiResPixel_not (bg fg : Colour) (normal : Bool) (b : Byte) (k : Nat) :
    hiResPixel bg fg (!normal) b k = if b.getLsbD k = normal then fg else bg := by
  unfold hiResPixel
  cases b.getLsbD k <;> cases normal <;> rfl

theorem multi_getElem (bg border fg aux : Colour) (b : Byte) (j : Fin 8) :
    (multi bg border fg aux b)[j] = multiPair bg border fg aux b (6 - 2 * (j.val / 2)) := by
  fin_cases j <;> rfl

theorem decodeChar_hiRes (s : State) (b : Byte) {colr : BitVec 4} (h : colr.getLsbD 3 = false) :
    decodeChar s b colr = hiRes s.bgColour (foreground colr) (!s.normal) b := by
  simp only [decodeChar, h, Bool.false_eq_true, if_false]

theorem decodeChar_multi (s : State) (b : Byte) {colr : BitVec 4} (h : colr.getLsbD 3 = true) :
    decodeChar s b colr = multi s.bgColour s.borderColour (foreground colr) s.auxColour b := by
  simp only [decodeChar, h, if_true]

/-- Settles O42. -/
theorem hiResDecodeMapsBitsToTwoColours : Obligations.HiResDecodeMapsBitsToTwoColours := by
  unfold Obligations.HiResDecodeMapsBitsToTwoColours
  intro s b colr hcolr j
  rw [decodeChar_hiRes s b hcolr, hiRes_getElem, hiResPixel_not]
  rfl

/-- Settles O43: the two bits of a pair, as a number, are the case of R335's table. -/
theorem multicolourDecodeMapsPairsToFourColours : Obligations.MulticolourDecodeMapsPairsToFourColours := by
  unfold Obligations.MulticolourDecodeMapsPairsToFourColours
  intro s b colr hcolr j
  rw [decodeChar_multi s b hcolr, multi_getElem, extract_pair, multiPair]
  cases b.getLsbD (6 - 2 * (j.val / 2) + 1) <;> cases b.getLsbD (6 - 2 * (j.val / 2)) <;> rfl

/-! ## The pipeline (R330, R331) -/

/-- Settles O44. -/
theorem pipelineShiftsAndFillsWithTheBorder : Obligations.PipelineShiftsAndFillsWithTheBorder := by
  unfold Obligations.PipelineShiftsAndFillsWithTheBorder
  intro s hs
  have hpipe : ((tick hw s).answer .ok).pipe = (pixelRefill s).pipe := tick_pipe_of_not_charData hw hs
  refine ⟨(tick hw s).answer .ok, rfl, ?_, ?_⟩
  · intro k
    rw [hpipe]
    fin_cases k <;> rfl
  · intro k
    rw [hpipe]
    fin_cases k <;> rfl

theorem pixelBatch_congr {s t : State} (h : s.pipe = t.pipe) : pixelBatch s = pixelBatch t := by
  simp only [pixelBatch, h]

/-- Two refills in a row put the first one's border fill at the head of the pipeline. -/
theorem pixelBatch_pixelRefill_of_pipe {s t : State} (h : t.pipe = (pixelRefill s).pipe) :
    pixelBatch (pixelRefill t) = #v[s.borderColour, s.borderColour, s.borderColour, s.borderColour] := by
  simp only [pixelBatch, pixelRefill, h]
  rfl

/-- Settles O45. -/
theorem borderFillIsTheBatchTwoTicksLater : Obligations.BorderFillIsTheBatchTwoTicksLater := by
  unfold Obligations.BorderFillIsTheBatchTwoTicksLater
  intro cfg s hfirst hsecond
  have hpipe : (ticks cfg 2 s).pipe = (pixelRefill (tick cfg s)).pipe := tick_pipe_of_not_charData cfg hsecond
  rw [pixelBatch_congr hpipe, pixelBatch_pixelRefill_of_pipe (tick_pipe_of_not_charData cfg hfirst)]

/-! ## The test modes (R267)

Every pass does the same in another mode of the same standard, whatever OUT and FB hold, but for what the encoder and the framebuffer
writer append to these two. -/

/-- The same core in another mode, with other outputs. -/
def State.withView (s : State) (v : VideoMode) (out : List CmdWord) (fb : Memory) : State := { s with mode := v, out := out, fb := fb }

theorem State.withView_ite (c : Prop) [Decidable c] (s t : State) (v : VideoMode) (out : List CmdWord) (fb : Memory) :
    (if c then s else t).withView v out fb = if c then s.withView v out fb else t.withView v out fb :=
  apply_ite (State.withView · v out fb) c s t

section
variable (cfg : Config) (s : State) (v : VideoMode) (out : List CmdWord) (fb : Memory)

theorem fetchPass_withView (hc0 : BitVec 7) (vc0 : BitVec 9) :
    fetchPass cfg hc0 vc0 (s.withView v out fb) = (fetchPass cfg hc0 vc0 s).withView v out fb := by
  have hfstate : (s.withView v out fb).fstate = s.fstate := rfl
  simp only [fetchPass, hfstate]
  cases s.fstate with
  | outsideMatrix =>
    simp only [yCompare, State.withView_ite]
    rfl
  | inMatrixY | inMatrixX =>
    simp only [xCompare, State.withView_ite]
    rfl
  | screenCode | charData | matrixDly1 | matrixDly2 | matrixDly3 | matrixLine => rfl

theorem waveStep_withView (i : Channel) (en : Bool) : waveStep i en (s.withView v out fb) = (waveStep i en s).withView v out fb := by
  simp only [waveStep, State.withView_ite]
  rfl

theorem channelStep_withView (i : Channel) : channelStep cfg (s.withView v out fb) i = (channelStep cfg s i).withView v out fb := by
  simp only [channelStep, State.withView_ite, ← waveStep_withView]
  rfl

theorem audioTick_withView : audioTick cfg (s.withView v out fb) = (audioTick cfg s).withView v out fb := by
  have hloop : channels.foldl (channelStep cfg) (s.withView v out fb) = (channels.foldl (channelStep cfg) s).withView v out fb :=
    List.foldl_hom (State.withView · v out fb) fun t i => channelStep_withView cfg t v out fb i
  simp only [audioTick, hloop]
  rfl

theorem encoderStep_withView (hc0 : BitVec 7) (vc0 : BitVec 9) (batch batch' : Vector Colour 4) :
    ∃ out', encoderStep cfg hc0 vc0 batch' (s.withView v out fb) = (encoderStep cfg hc0 vc0 batch s).withView v out' fb :=
  ⟨_, rfl⟩

theorem rowAccounting_withView : rowAccounting (s.withView v out fb) = (rowAccounting s).withView v out fb := by
  simp only [rowAccounting, State.withView_ite]
  rfl

variable {s v} (hv : modeStandard v = s.standard)
include hv

theorem State.withView_standard : (s.withView v out fb).standard = s.standard := hv

theorem State.withView_frameLength : (s.withView v out fb).frameLength = s.frameLength :=
  congrArg (frameLines · s.interlace) hv

theorem framebufferStep_withView (hc0 : BitVec 7) (vc0 : BitVec 9) (batch batch' : Vector Colour 4) :
    ∃ fb', framebufferStep cfg hc0 vc0 batch' (s.withView v out fb) = (framebufferStep cfg hc0 vc0 batch s).withView v out fb' := by
  simp only [framebufferStep, State.withView_standard out fb hv]
  split
  · exact ⟨_, rfl⟩
  · exact ⟨_, rfl⟩

theorem cyclePasses_withView : ∃ out' fb', cyclePasses cfg (s.withView v out fb) = (cyclePasses cfg s).withView v out' fb' := by
  have hfetch : fetchPass cfg s.hc s.vc (pixelRefill (s.withView v out fb)) =
      (fetchPass cfg s.hc s.vc (pixelRefill s)).withView v out fb := fetchPass_withView cfg (pixelRefill s) v out fb s.hc s.vc
  obtain ⟨out', hencode⟩ := encoderStep_withView cfg (fetchPass cfg s.hc s.vc (pixelRefill s)) v out fb s.hc s.vc (s.tickBatch cfg)
    ((s.withView v out fb).tickBatch cfg)
  have hencoded : modeStandard v = (encoderStep cfg s.hc s.vc (s.tickBatch cfg) (fetchPass cfg s.hc s.vc (pixelRefill s))).standard :=
    hv.trans (State.standard_congr (by simp)).symm
  obtain ⟨fb', hplot⟩ := framebufferStep_withView cfg out' fb hencoded s.hc s.vc (s.tickBatch cfg)
    ((s.withView v out fb).tickBatch cfg)
  refine ⟨out', fb', ?_⟩
  calc cyclePasses cfg (s.withView v out fb)
      _ = audioTick cfg (framebufferStep cfg s.hc s.vc ((s.withView v out fb).tickBatch cfg)
            (encoderStep cfg s.hc s.vc ((s.withView v out fb).tickBatch cfg)
              (fetchPass cfg s.hc s.vc (pixelRefill (s.withView v out fb))))) := rfl
      _ = (cyclePasses cfg s).withView v out' fb' := by
        rw [hfetch, hencode, hplot, audioTick_withView]
        rfl

theorem rasterPhase_withView (hc0 : BitVec 7) :
    rasterPhase cfg hc0 (s.withView v out fb) = (rasterPhase cfg hc0 s).withView v out fb := by
  simp only [rasterPhase, State.withView_standard out fb hv, State.withView_ite]
  rfl

theorem frameStart_withView : frameStart (s.withView v out fb) = (frameStart s).withView v out fb := by
  simp only [frameStart, State.withView_standard out fb hv]
  rfl

theorem verticalIncrement_withView : verticalIncrement (s.withView v out fb) = (verticalIncrement s).withView v out fb := by
  have hstart := frameStart_withView out fb (s := { s with vc := 0 }) hv
  simp only [verticalIncrement, State.withView_frameLength out fb hv, State.withView_ite, ← hstart]
  rfl

theorem verticalPhase_withView (hc0 : BitVec 7) :
    verticalPhase cfg hc0 (s.withView v out fb) = (verticalPhase cfg hc0 s).withView v out fb := by
  simp only [verticalPhase, State.withView_standard out fb hv, State.withView_ite, verticalIncrement_withView out fb hv]

theorem linePhase_withView (hc0 : BitVec 7) : linePhase hc0 (s.withView v out fb) = (linePhase hc0 s).withView v out fb := by
  simp only [linePhase, newLine, State.withView_standard out fb hv, State.withView_ite, ← rowAccounting_withView]
  rfl

theorem tick_withView : ∃ out' fb', tick cfg (s.withView v out fb) = (tick cfg s).withView v out' fb' := by
  obtain ⟨out', fb', hcycle⟩ := cyclePasses_withView cfg out fb hv
  have hcycled : modeStandard v = (cyclePasses cfg s).standard := hv.trans (cyclePasses_standard cfg s).symm
  have hrastered : modeStandard v = (rasterPhase cfg s.hc (cyclePasses cfg s)).standard :=
    hcycled.trans (rasterPhase_standard ..).symm
  have hbefore : modeStandard v = (verticalPhase cfg s.hc (rasterPhase cfg s.hc (cyclePasses cfg s))).standard :=
    hv.trans (beforeLinePhase_standard cfg s).symm
  refine ⟨out', fb', ?_⟩
  calc tick cfg (s.withView v out fb)
      _ = horizontalPass cfg s.hc ((cyclePasses cfg s).withView v out' fb') := congrArg (horizontalPass cfg s.hc) hcycle
      _ = (tick cfg s).withView v out' fb' := by
        simp only [horizontalPass, tick, rasterPhase_withView cfg out' fb' hcycled, verticalPhase_withView cfg out' fb' hrastered,
          linePhase_withView out' fb' hbefore]

end

/-- Settles O46: a TICK in the other mode is the TICK with another mode, OUT and FB. -/
theorem testPatternChangesOnlyTheOutputs : Obligations.TestPatternChangesOnlyTheOutputs := by
  unfold Obligations.TestPatternChangesOnlyTheOutputs
  intro cfg s v hv
  constructor
  · obtain ⟨out, fb, htick⟩ : ∃ out fb, tick cfg { s with mode := v } = (tick cfg s).withView v out fb :=
      tick_withView cfg s.out s.fb hv
    rw [htick]
    rfl
  · intro htest k
    have hpattern : ({ s with mode := v } : State).test = true := htest
    have hstandard : ({ s with mode := v } : State).standard = s.standard := hv
    rw [shownBatch, if_pos hpattern, hstandard]
    fin_cases k <;> rfl

end Sys2Proof.Machine
end

section
/-! PROOFS. What a TICK appends to OUT (44_composite_encoder.md) and plots in FB (46_framebuffer.md). -/

namespace Sys2Proof.Machine

/-! ## The composite words (R350 to R359) -/

/-- Of the four pixels of a cycle the last one alone is truncated, in the last cycle of the window (R356). -/
theorem truncated_of_ne_three (cfg : Config) (S : Standard) (hc0 : BitVec 7) {k : Fin 4} (h : k ≠ 3) :
    truncated cfg S hc0 k = false := by
  simp [truncated, h]

theorem truncated_three (cfg : Config) (S : Standard) (hc0 : BitVec 7) :
    truncated cfg S hc0 3 = decide (hc0.toNat + 1 = cfg.hvisEnd S) := by
  simp [truncated]

/-- The four pixel words of a visible PAL cycle (R354, R356). -/
theorem pixelWords_pal (cfg : Config) (parity : Bool) (hc0 : BitVec 7) (px : Vector Colour 4) :
    (pixels.map fun k => pixelWord cfg .pal parity hc0 k px[k]) =
      [⟨cfg.cmdWidth .pal, cfg.palPix parity px[0]⟩, ⟨cfg.cmdWidth .pal, cfg.palPix parity px[1]⟩,
       ⟨cfg.cmdWidth .pal, cfg.palPix parity px[2]⟩,
       ⟨cfg.cmdWidth .pal, if hc0.toNat + 1 = cfg.hvisEnd .pal then cfg.palPixTrunc parity px[3] else cfg.palPix parity px[3]⟩] := by
  simp [pixels, pixelWord, palPixelWord, truncated_three, truncated_of_ne_three]

/-- The four pixel words of a visible NTSC cycle (R355, R356). -/
theorem pixelWords_ntsc (cfg : Config) (parity : Bool) (hc0 : BitVec 7) (px : Vector Colour 4) :
    (pixels.map fun k => pixelWord cfg .ntsc parity hc0 k px[k]) =
      [⟨cfg.cmdWidth .ntsc, cfg.ntscPix (cfg.ntscRow parity hc0 0) px[0]⟩,
       ⟨cfg.cmdWidth .ntsc, cfg.ntscPix (cfg.ntscRow parity hc0 1) px[1]⟩,
       ⟨cfg.cmdWidth .ntsc, cfg.ntscPix (cfg.ntscRow parity hc0 2) px[2]⟩,
       ⟨cfg.cmdWidth .ntsc, if hc0.toNat + 1 = cfg.hvisEnd .ntsc then cfg.ntscPixTrunc (cfg.ntscRow parity hc0 3) px[3]
         else cfg.ntscPix (cfg.ntscRow parity hc0 3) px[3]⟩] := by
  simp [pixels, pixelWord, ntscPixelWord, truncated_three, truncated_of_ne_three]

theorem encoderWords_length (cfg : Config) (S : Standard) (parity field : Bool) (hc0 : BitVec 7) (vc0 : BitVec 9)
    (batch : Vector Colour 4) :
    (encoderWords cfg S parity field hc0 vc0 batch).length =
      (cfg.syncCmds S (lineClass cfg S vc0) parity field hc0).length + if visible cfg S hc0 vc0 then 4 else 0 := by
  rw [encoderWords, List.length_append, syncWords, List.length_map]
  split <;> rfl

/-- Settles O47. -/
theorem encoderAppendsSyncWordsThenPixelWords : Obligations.EncoderAppendsSyncWordsThenPixelWords := by
  unfold Obligations.EncoderAppendsSyncWordsThenPixelWords
  intro s
  have hout : ((tick hw s).answer .ok).out = s.out ++ encoderWords hw s.standard s.lineParity s.field s.hc s.vc (s.tickBatch hw) :=
    tick_out hw s
  refine ⟨(tick hw s).answer .ok, rfl, s.tickBatch hw, rfl, ?_, ?_⟩
  · intro hpal
    rw [hout, hpal, encoderWords, pixelWords_pal, syncWords, List.append_assoc]
  · intro hntsc
    rw [hout, hntsc, encoderWords, pixelWords_ntsc, syncWords, List.append_assoc]

/-- Settles O48. -/
theorem emittedWordsDependOnPositionPhaseAndBatchAlone : Obligations.EmittedWordsDependOnPositionPhaseAndBatchAlone := by
  unfold Obligations.EmittedWordsDependOnPositionPhaseAndBatchAlone
  intro cfg s t hstandard hhc hvc hparity hfield hshown
  have hbatch : s.tickBatch cfg = t.tickBatch cfg := hshown
  refine ⟨encoderWords cfg s.standard s.lineParity s.field s.hc s.vc (s.tickBatch cfg), tick_out cfg s, ?_, encoderWords_length ..⟩
  rw [hstandard, hparity, hfield, hhc, hvc, hbatch]
  exact tick_out cfg t

/-! ## The framebuffer (R410, R411) -/

theorem mem_pixels (k : Fin 4) : k ∈ pixels := by
  revert k
  decide

section
variable (cfg : Config) (S : Standard) (vc0 fbcol : BitVec 9) (batch : Vector Colour 4) {y x : Nat}

theorem fbPixel_wf {fb : Memory} (hfb : fb.wf fbInit = true) (k : Fin 4) :
    (fbPixel cfg S vc0 fbcol batch fb k).wf fbInit = true :=
  fbPlot_wf cfg S _ _ _ hfb

variable (hy : y < cfg.fbHeight S) (hx : x < cfg.fbWidth S)
include hy hx

/-- A cell that none of the pixels meets keeps its byte. -/
theorem foldl_fbPixel_read_of_missed {ks : List (Fin 4)} {fb : Memory} (hfb : fb.wf fbInit = true)
    (hmissed : ∀ k ∈ ks, ¬ (fbLine cfg S vc0 = y ∧ fbcol.toNat + k.val = x)) :
    (ks.foldl (fbPixel cfg S vc0 fbcol batch) fb).read fbInit (fbKey cfg S y x) = fb.read fbInit (fbKey cfg S y x) := by
  induction ks generalizing fb with
  | nil => rfl
  | cons k ks ih =>
    rw [List.foldl_cons, ih (fbPixel_wf cfg S vc0 fbcol batch hfb _) fun k' hk' => hmissed k' (List.mem_cons_of_mem _ hk'), fbPixel,
      fbPlot_read cfg S hfb _ _ _ hy hx, if_neg (hmissed k List.mem_cons_self)]

/-- A cell that a pixel meets takes its colour: no other pixel has that column. -/
theorem foldl_fbPixel_read_of_met {ks : List (Fin 4)} {fb : Memory} (hfb : fb.wf fbInit = true) {k : Fin 4} (hk : k ∈ ks)
    (hline : fbLine cfg S vc0 = y) (hcolumn : fbcol.toNat + k.val = x) :
    (ks.foldl (fbPixel cfg S vc0 fbcol batch) fb).read fbInit (fbKey cfg S y x) = cfg.fbColour batch[k] := by
  induction ks generalizing fb with
  | nil => cases hk
  | cons k' ks ih =>
    rw [List.foldl_cons]
    by_cases hlater : k ∈ ks
    · exact ih (fbPixel_wf cfg S vc0 fbcol batch hfb _) hlater
    · obtain rfl : k = k' := (List.mem_cons.1 hk).resolve_right hlater
      rw [foldl_fbPixel_read_of_missed cfg S vc0 fbcol batch hy hx (fbPixel_wf cfg S vc0 fbcol batch hfb _), fbPixel,
        fbPlot_read cfg S hfb _ _ _ hy hx, if_pos ⟨hline, hcolumn⟩]
      rintro k' hk' ⟨-, hcolumn'⟩
      have hsame : k' = k := Fin.ext (by omega)
      exact hlater (hsame ▸ hk')

/-- The whole batch covers four columns of its line. -/
theorem foldl_fbPixel_read {fb : Memory} (hfb : fb.wf fbInit = true) :
    (pixels.foldl (fbPixel cfg S vc0 fbcol batch) fb).read fbInit (fbKey cfg S y x) =
      if vc0.toNat = y + cfg.fbLineOffset S ∧ fbcol.toNat ≤ x ∧ x < fbcol.toNat + 4 then
        cfg.fbColour (batch.toList.getD (x - fbcol.toNat) 0)
      else fb.read fbInit (fbKey cfg S y x) := by
  have hline : fbLine cfg S vc0 = y ↔ vc0.toNat = y + cfg.fbLineOffset S := by
    unfold fbLine
    omega
  split
  · next hmet =>
    obtain ⟨hvc, hleft, hright⟩ := hmet
    have hk : x - fbcol.toNat < 4 := by omega
    rw [foldl_fbPixel_read_of_met cfg S vc0 fbcol batch hy hx hfb (k := ⟨x - fbcol.toNat, hk⟩) (mem_pixels _)
      (hline.2 hvc) (Nat.add_sub_cancel' hleft)]
    simp [List.getD_eq_getElem?_getD, hk]
  · next hmissed =>
    refine foldl_fbPixel_read_of_missed cfg S vc0 fbcol batch hy hx hfb ?_
    rintro k - ⟨hvc, hcolumn⟩
    exact hmissed ⟨hline.1 hvc, by omega, by omega⟩

end

theorem fbCell_isSome_iff (cfg : Config) (s : State) (y x : Nat) :
    (s.fbCell cfg y x).isSome = true ↔ y < cfg.fbHeight s.standard ∧ x < cfg.fbWidth s.standard := by
  rw [← fbExists_iff, State.fbCell]
  cases fbExists cfg s.standard y x <;> simp

theorem tick_fbCell (cfg : Config) {s : State} (hfb : s.fb.wf fbInit = true) (y x : Nat) :
    (tick cfg s).fbCell cfg y x =
      if visible cfg s.standard s.hc s.vc = true ∧ s.vc.toNat = y + cfg.fbLineOffset s.standard ∧
          y < cfg.fbHeight s.standard ∧ x < cfg.fbWidth s.standard ∧ s.fbcol.toNat ≤ x ∧ x < s.fbcol.toNat + 4 then
        some (cfg.fbColour ((s.tickBatch cfg).toList.getD (x - s.fbcol.toNat) 0))
      else s.fbCell cfg y x := by
  rw [State.fbCell, State.fbCell, tick_standard, tick_fb]
  by_cases hexists : fbExists cfg s.standard y x = true
  · obtain ⟨hy, hx⟩ := fbExists_iff.1 hexists
    by_cases hvisible : visible cfg s.standard s.hc s.vc = true
    · simp only [hexists, hvisible, hy, hx, if_true, true_and, foldl_fbPixel_read cfg s.standard s.vc s.fbcol _ hy hx hfb,
        apply_ite some]
    · simp only [hexists, hvisible, if_true, false_and, if_false, Bool.false_eq_true]
  · rw [if_neg hexists, if_neg hexists, if_neg]
    rintro ⟨-, -, hy, hx, -⟩
    exact hexists (fbExists_iff.2 ⟨hy, hx⟩)

/-- The channels of a pixel byte as numbers (R137). -/
theorem pixel_channels_toNat (p : Byte) :
    (pixelRed p).toNat = p.toNat / 32 ∧ (pixelGreen p).toNat = p.toNat / 4 % 8 ∧ (pixelBlue p).toNat = p.toNat % 4 := by
  revert p
  decide

/-- Settles O49. -/
theorem framebufferTakesTheBatchAtItsCoordinates : Obligations.FramebufferTakesTheBatchAtItsCoordinates := by
  unfold Obligations.FramebufferTakesTheBatchAtItsCoordinates
  refine ⟨fun s hfb => ⟨(tick hw s).answer .ok, rfl, fun y x => ?_⟩, fbCell_isSome_iff hw, fun p => ?_⟩
  · exact tick_fbCell hw hfb y x
  · obtain ⟨hred, hgreen, hblue⟩ := pixel_channels_toNat p
    exact ⟨hred, hgreen, hblue, rgb332_channels p⟩

end Sys2Proof.Machine
end

section
/-! PROOFS. The audio channels in a TICK (45_audio.md): each channel's step reads and writes that channel only, so that a TICK does to
each channel what its own step does from the state before. -/

namespace Sys2Proof.Machine

/-! ## The step of the noise channel (R388, R389) -/

section
variable (cfg : Config) (s : State)

theorem channelStep_lfsr_noise :
    (channelStep cfg s 3).lfsr = if (channelStep cfg s 3).due[3] then lfsrShift s.lfsr (s.channelEn 3) else s.lfsr := by
  have hdue : (channelStep cfg s 3).due[3] = _ := channelStep_due_same cfg s 3
  rw [hdue, channelStep]
  by_cases hclocked : clocked cfg s.ap 3 = true
  · by_cases hterminal : s.ctr[(3 : Channel)] = cfg.audioTerminal
    · simp only [hclocked, hterminal, if_true, Bool.true_and, decide_true]
      rfl
    · simp only [hclocked, hterminal, if_true, if_false, Bool.true_and, decide_false, Bool.false_eq_true, State.setChannel_lfsr]
  · simp only [hclocked, if_false, Bool.false_and, Bool.false_eq_true, State.setChannel_lfsr]

theorem channelStep_sr_noise :
    (channelStep cfg s 3).sr[3] =
      if (channelStep cfg s 3).due[3] = true ∧ noiseFeedback s.lfsr (s.channelEn 3) = true then
        waveShift s.sr[3] (s.channelEn 3)
      else s.sr[3] := by
  have hdue : (channelStep cfg s 3).due[3] = _ := channelStep_due_same cfg s 3
  rw [hdue, channelStep]
  by_cases hclocked : clocked cfg s.ap 3 = true
  · by_cases hterminal : s.ctr[(3 : Channel)] = cfg.audioTerminal
    · by_cases hfeedback : noiseFeedback s.lfsr (s.channelEn 3) = true
      · simp [hclocked, hterminal, hfeedback, waveStep, noiseStep]
      · simp [hclocked, hterminal, hfeedback, waveStep, noiseStep]
    · simp only [hclocked, hterminal, if_true, if_false, Bool.true_and, decide_false, Bool.false_eq_true, false_and,
        State.setChannel_sr]
  · simp only [hclocked, if_false, Bool.false_and, Bool.false_eq_true, false_and, State.setChannel_sr]

end

/-! ## One channel in two states -/

theorem tone_of_ne_three {i : Channel} (h : i ≠ 3) : i.val < 3 := by
  revert i
  decide

/-- The state of channel i is the same in both: its counter, due flag and waveform register, and the LFSR for the noise channel. -/
structure SameChannel (i : Channel) (s t : State) : Prop where
  ctr : s.ctr[i] = t.ctr[i]
  due : s.due[i] = t.due[i]
  sr : s.sr[i] = t.sr[i]
  lfsr : i = 3 → s.lfsr = t.lfsr

theorem channelStep_same_of_ne (cfg : Config) (s : State) {i k : Channel} (h : i ≠ k) : SameChannel i (channelStep cfg s k) s where
  ctr := channelStep_ctr_other cfg s k i h
  due := channelStep_due_other cfg s k i h
  sr := channelStep_sr_other cfg s k i h
  lfsr hi := channelStep_lfsr_tone cfg s k (tone_of_ne_three fun hk => h (hi.trans hk.symm))

namespace SameChannel

variable {i : Channel} {s t u : State}

theorem refl (i : Channel) (s : State) : SameChannel i s s := ⟨rfl, rfl, rfl, fun _ => rfl⟩

theorem trans (h : SameChannel i s t) (h' : SameChannel i t u) : SameChannel i s u :=
  ⟨h.ctr.trans h'.ctr, h.due.trans h'.due, h.sr.trans h'.sr, fun hi => (h.lfsr hi).trans (h'.lfsr hi)⟩

/-- A channel's step depends on that channel, the prescaler and the bank only. -/
theorem channelStep (h : SameChannel i s t) (hap : s.ap = t.ap) (hregs : s.regs = t.regs) (cfg : Config) :
    SameChannel i (Machine.channelStep cfg s i) (Machine.channelStep cfg t i) := by
  have hen : s.channelEn i = t.channelEn i := by simp only [State.channelEn, State.reg, hregs]
  have hfreq : s.channelFreq i = t.channelFreq i := by simp only [State.channelFreq, State.reg, hregs]
  have hdue : (Machine.channelStep cfg s i).due[i] = (Machine.channelStep cfg t i).due[i] := by
    rw [channelStep_due_same, channelStep_due_same, hap, h.ctr]
  refine ⟨?_, hdue, ?_, ?_⟩
  · rw [channelStep_ctr_same, channelStep_ctr_same, hap, h.ctr, hfreq]
  · by_cases hnoise : i = 3
    · subst hnoise
      have hsr : s.sr[3] = t.sr[3] := h.sr
      have hstep := channelStep_sr_noise cfg s
      rw [show (Machine.channelStep cfg s 3).due[3] = (Machine.channelStep cfg t 3).due[3] from hdue, h.lfsr rfl, hsr, hen] at hstep
      exact hstep.trans (channelStep_sr_noise cfg t).symm
    · rw [channelStep_sr_tone cfg s i (tone_of_ne_three hnoise), channelStep_sr_tone cfg t i (tone_of_ne_three hnoise), hdue, h.sr,
        hen]
  · rintro rfl
    rw [channelStep_lfsr_noise, channelStep_lfsr_noise,
      show (Machine.channelStep cfg s 3).due[3] = (Machine.channelStep cfg t 3).due[3] from hdue, h.lfsr rfl, hen]

end SameChannel

/-! ## The loop over the channels (R380) -/

section
variable (cfg : Config)

theorem foldl_channelStep_ap (ks : List Channel) (s : State) : (ks.foldl (channelStep cfg) s).ap = s.ap := by
  induction ks generalizing s with
  | nil => rfl
  | cons k ks ih => rw [List.foldl_cons, ih, channelStep_ap]

theorem foldl_channelStep_regs (ks : List Channel) (s : State) : (ks.foldl (channelStep cfg) s).regs = s.regs := by
  induction ks generalizing s with
  | nil => rfl
  | cons k ks ih => rw [List.foldl_cons, ih, channelStep_regs]

theorem foldl_channelStep_same_of_notMem {i : Channel} {ks : List Channel} (h : i ∉ ks) (s : State) :
    SameChannel i (ks.foldl (channelStep cfg) s) s := by
  induction ks generalizing s with
  | nil => exact .refl i s
  | cons k ks ih =>
    obtain ⟨hne, hrest⟩ := not_or.1 fun h' => h (List.mem_cons.2 h')
    exact (ih hrest _).trans (channelStep_same_of_ne cfg s hne)

/-- The loop does to each channel what that channel's step does. -/
theorem foldl_channels_same (i : Channel) (s : State) : SameChannel i (channels.foldl (channelStep cfg) s) (channelStep cfg s i) := by
  obtain ⟨before, after, hchannels⟩ := List.append_of_mem (show i ∈ channels by revert i; decide)
  have hnodup : (before ++ i :: after).Nodup := hchannels ▸ (by decide : channels.Nodup)
  obtain ⟨hafter, hbefore⟩ : i ∉ after ∧ i ∉ before := by
    have hmiddle := List.nodup_middle.1 hnodup
    simpa [not_or, and_comm] using (List.nodup_cons.1 hmiddle).1
  rw [hchannels, List.foldl_append, List.foldl_cons]
  refine (foldl_channelStep_same_of_notMem cfg hafter _).trans ?_
  exact (foldl_channelStep_same_of_notMem cfg hbefore s).channelStep (foldl_channelStep_ap cfg before s)
    (foldl_channelStep_regs cfg before s) cfg

/-! ## The TICK -/

variable (s : State)

theorem beforeAudio_same (i : Channel) : SameChannel i (beforeAudio cfg s) s := by
  constructor <;> simp [beforeAudio]

theorem beforeAudio_ap : (beforeAudio cfg s).ap = s.ap := by simp [beforeAudio]

theorem beforeAudio_regs : (beforeAudio cfg s).regs = s.regs := by simp [beforeAudio]

theorem tick_same_afterChannels (i : Channel) : SameChannel i (tick cfg s) (afterChannels cfg s) := by
  rw [tick_eq_mixDown]
  constructor <;> simp [horizontalPass, mixDown, advancePrescaler]

/-- A TICK does to each channel what that channel's step does from the state before the TICK. -/
theorem tick_channel (i : Channel) : SameChannel i (tick cfg s) (channelStep cfg s i) :=
  (tick_same_afterChannels cfg s i).trans ((foldl_channels_same cfg i (beforeAudio cfg s)).trans
    ((beforeAudio_same cfg s i).channelStep (beforeAudio_ap cfg s) (beforeAudio_regs cfg s) cfg))

theorem tick_ctr_channel (i : Channel) :
    (tick cfg s).ctr[i] =
      if clocked cfg s.ap i then if s.ctr[i] = cfg.audioTerminal then reloadValue cfg (s.channelFreq i) else s.ctr[i] - 1
      else s.ctr[i] :=
  (tick_channel cfg s i).ctr.trans (channelStep_ctr_same cfg s i)

theorem tick_due_channel (i : Channel) :
    (tick cfg s).due[i] = (clocked cfg s.ap i && decide (s.ctr[i] = cfg.audioTerminal)) :=
  (tick_channel cfg s i).due.trans (channelStep_due_same cfg s i)

theorem tick_sr_tone {i : Channel} (h : i.val < 3) :
    (tick cfg s).sr[i] = if (tick cfg s).due[i] then waveShift s.sr[i] (s.channelEn i) else s.sr[i] := by
  rw [(tick_channel cfg s i).sr, (tick_channel cfg s i).due, channelStep_sr_tone cfg s i h]

theorem tick_lfsr : (tick cfg s).lfsr = if (tick cfg s).due[3] then lfsrShift s.lfsr (s.channelEn 3) else s.lfsr := by
  have hdue : (tick cfg s).due[3] = (channelStep cfg s 3).due[3] := (tick_channel cfg s 3).due
  rw [hdue, (tick_channel cfg s 3).lfsr rfl, channelStep_lfsr_noise]

theorem tick_sr_noise :
    (tick cfg s).sr[3] =
      if (tick cfg s).due[3] = true ∧ noiseFeedback s.lfsr (s.channelEn 3) = true then waveShift s.sr[3] (s.channelEn 3)
      else s.sr[3] := by
  have hdue : (tick cfg s).due[3] = (channelStep cfg s 3).due[3] := (tick_channel cfg s 3).due
  have hsr : (tick cfg s).sr[3] = (channelStep cfg s 3).sr[3] := (tick_channel cfg s 3).sr
  rw [hdue, hsr, channelStep_sr_noise]

end

/-! ## The shift of the LFSR (R388) -/

theorem lfsrShift_low (l : BitVec 16) (en : Bool) : (lfsrShift l en).getLsbD 0 = noiseFeedback l en := by
  simp [lfsrShift]

theorem lfsrShift_high (l : BitVec 16) (en : Bool) {i : Nat} (h : i < 15) : (lfsrShift l en).getLsbD (i + 1) = l.getLsbD i := by
  simp [lfsrShift]
  omega

theorem lfsrShift_toNat (l : BitVec 16) (en : Bool) :
    (lfsrShift l en).toNat = l.toNat * 2 % 65536 + (noiseFeedback l en).toNat := by
  have hconcat : lfsrShift l en = (l.setWidth 15).concat (noiseFeedback l en) := by
    refine BitVec.eq_of_getLsbD_eq fun i hi => ?_
    cases i with
    | zero => rw [lfsrShift_low, BitVec.getLsbD_concat_zero]
    | succ i => rw [lfsrShift_high l en (by omega), BitVec.getLsbD_concat_succ, BitVec.getLsbD_setWidth]; simp; omega
  rw [hconcat, BitVec.toNat_concat, BitVec.toNat_setWidth]
  omega

theorem noiseFeedback_enabled (l : BitVec 16) :
    noiseFeedback l true = (l.getLsbD 15 ^^ l.getLsbD 14 ^^ l.getLsbD 12 ^^ l.getLsbD 3) := rfl

/-- The bits below the top one are in the successor as they are, and then the feedback bit gives the top one. -/
theorem lfsrShift_injective : Function.Injective fun l => lfsrShift l true := by
  intro l m (h : lfsrShift l true = lfsrShift m true)
  have hlower : ∀ i < 15, l.getLsbD i = m.getLsbD i := fun i hi => by
    rw [← lfsrShift_high l true hi, h, lfsrShift_high m true hi]
  have htop : l.getLsbD 15 = m.getLsbD 15 := by
    have hfeedback := lfsrShift_low l true
    rw [h, lfsrShift_low, noiseFeedback_enabled, noiseFeedback_enabled, hlower 14 (by omega), hlower 12 (by omega),
      hlower 3 (by omega)] at hfeedback
    simpa using hfeedback.symm
  refine BitVec.eq_of_getLsbD_eq fun i hi => ?_
  obtain hi | rfl : i < 15 ∨ i = 15 := by omega
  · exact hlower i hi
  · exact htop

/-- Disabled, every step shifts in a one. -/
theorem lfsrShift_disabled_iterate_low (l : BitVec 16) {n j : Nat} (hj : j < n) (hn : n ≤ 16) :
    ((fun x => lfsrShift x false)^[n] l).getLsbD j = true := by
  induction n generalizing j with
  | zero => omega
  | succ n ih =>
    rw [Function.iterate_succ_apply']
    cases j with
    | zero => rw [lfsrShift_low, noiseFeedback_disabled]
    | succ j => rw [lfsrShift_high _ _ (by omega), ih (by omega) (by omega)]

/-! ## The obligations -/

/-- Settles O51: `tick_ctr_channel` and `tick_due_channel`, case by case. -/
theorem audioCountersCountDownAndReload : Obligations.AudioCountersCountDownAndReload := by
  unfold Obligations.AudioCountersCountDownAndReload
  intro s
  refine ⟨(tick hw s).answer .ok, rfl, tick_ap hw s, fun i => ?_⟩
  have hctr : ((tick hw s).answer .ok).ctr[i] = _ := tick_ctr_channel hw s i
  have hdue : ((tick hw s).answer .ok).due[i] = _ := tick_due_channel hw s i
  rw [hctr, hdue]
  refine ⟨fun hunclocked => ?_, fun hclocked hcount => ?_, fun hclocked hterminal => ?_⟩
  · have hclock : clocked hw s.ap i = false := decide_eq_false hunclocked
    simp only [hclock, Bool.false_eq_true, if_false, Bool.false_and, and_self]
  · have hclock : clocked hw s.ap i = true := decide_eq_true hclocked
    simp only [hclock, hcount, if_true, if_false, decide_false, Bool.and_false, and_self]
  · have hclock : clocked hw s.ap i = true := decide_eq_true hclocked
    simp only [hclock, hterminal, if_true, decide_true, Bool.and_true, and_true]
    rfl

/-- Settles O52. -/
theorem toneWaveformStepsWhenDue : Obligations.ToneWaveformStepsWhenDue := by
  unfold Obligations.ToneWaveformStepsWhenDue
  intro s i hi
  refine ⟨(tick hw s).answer .ok, rfl, ?_⟩
  have hsr : ((tick hw s).answer .ok).sr[i] = _ := tick_sr_tone hw s hi
  rw [hsr, apply_ite BitVec.toNat, waveShift_toNat]
  rfl

/-- Settles O53. -/
theorem noiseStepsWhenDue : Obligations.NoiseStepsWhenDue := by
  unfold Obligations.NoiseStepsWhenDue
  rintro s fb rfl
  refine ⟨(tick hw s).answer .ok, rfl, ?_, ?_⟩
  · have hlfsr : ((tick hw s).answer .ok).lfsr = _ := tick_lfsr hw s
    rw [hlfsr, apply_ite BitVec.toNat, lfsrShift_toNat]
    rfl
  · have hsr : ((tick hw s).answer .ok).sr[3] = _ := tick_sr_noise hw s
    rw [hsr, apply_ite BitVec.toNat, waveShift_toNat]
    rfl

/-- Settles O54. -/
theorem audioLevelIsTheMixOfTheChannels : Obligations.AudioLevelIsTheMixOfTheChannels := by
  unfold Obligations.AudioLevelIsTheMixOfTheChannels
  intro s
  have hregs : (afterChannels hw s).regs = s.regs := (foldl_channelStep_regs hw channels _).trans (beforeAudio_regs hw s)
  refine ⟨(tick hw s).answer .ok, rfl, channelOut (afterChannels hw s), fun i => ?_, ?_⟩
  · have hsr : ((tick hw s).answer .ok).sr[i] = (afterChannels hw s).sr[i] := (tick_same_afterChannels hw s i).sr
    rw [hsr, channelOut, State.channelEn, State.reg_congr hregs]
    cases (s.reg (channelReg i)).getLsbD 7 <;> rfl
  · have hlevel : ((tick hw s).answer .ok).audioLevel = _ := tick_audioLevel hw s
    have hvolume : (afterChannels hw s).volume.toNat = (s.reg 14).toNat % 16 := by
      rw [State.volume, State.reg_congr hregs, BitVec.extractLsb'_toNat, Nat.shiftRight_zero]
    rw [hlevel, mixDown_level hw hw_wellFormed, mixLevel, channelSum, hvolume]

/-- Eight steps shift every bit out and its inverse in. -/
theorem waveShift_enabled_iterate_eight : ∀ r : Byte, (fun x => waveShift x true)^[8] r = ~~~ r := by decide

theorem waveShift_disabled_iterate_eight : ∀ r : Byte, (fun x => waveShift x false)^[8] r = 0 := by decide

/-- Settles O55: inverting twice restores. -/
theorem toneRegisterIsATwistedRing : Obligations.ToneRegisterIsATwistedRing := by
  unfold Obligations.ToneRegisterIsATwistedRing
  intro r
  refine ⟨waveShift_enabled_iterate_eight r, ?_, waveShift_disabled_iterate_eight r⟩
  rw [Function.iterate_add_apply _ 8 8, waveShift_enabled_iterate_eight, waveShift_enabled_iterate_eight, BitVec.not_not]

/-- Settles O56: 0 is its own successor, so that no other value has it. -/
theorem noiseRegisterNeverEmptiesAndFillsWhenDisabled : Obligations.NoiseRegisterNeverEmptiesAndFillsWhenDisabled := by
  unfold Obligations.NoiseRegisterNeverEmptiesAndFillsWhenDisabled
  have hzero : lfsrShift 0 true = 0 := by decide
  refine ⟨fun l hl hempty => hl (lfsrShift_injective (hempty.trans hzero.symm)), fun l m h => lfsrShift_injective h, fun l => ?_⟩
  refine BitVec.eq_of_getLsbD_eq fun i hi => ?_
  rw [lfsrShift_disabled_iterate_low l hi le_rfl]
  revert i
  decide

end Sys2Proof.Machine
end
